-- ==== Sys2Proof/Word.lean ====
section
/-! DEFINITION. The word types of the block (00_scope.md R11, R15): a byte of a row or of a frame, the
16-bit command word, the 64-bit bitmap operand and the 7-bit device address. Bits are numbered from 0,
the least significant, upward. -/

namespace Sys2Proof

/-- A row, a frame byte or a data operand: an unsigned 8-bit value (R15). -/
abbrev Byte := BitVec 8

/-- The command word `CMD[15:0]` (R11, R70). -/
abbrev CommandWord := BitVec 16

/-- The bitmap operand `BMP[63:0]`, sampled only by `set` (R11, R71). -/
abbrev Bitmap := BitVec 64

/-- A Transport device address (R26, R32 (b)). -/
abbrev DeviceAddress := BitVec 7

end Sys2Proof
end

