-- ==== Sys2Proof/Syntax.lean ====
section
/-! DEFINITION. The commands of the block: one constructor per row of spec/opcode_table.json
(30_encoding.md R73), the operands at their encoded widths (R70, R72): `idx` is the 4-bit A field,
`dat` the 8-bit D field, and the bitmap of `set` is the 64-bit operand BMP (R71). -/

namespace Sys2Proof

/-- A command word that decodes (R74), or a word with a reserved selector (R75). -/
inductive Instr where
  /-- `on` (R180). -/
  | on
  /-- `off` (R182). -/
  | off
  /-- `set_brightness v` (R184). -/
  | setBrightness (v : BitVec 8)
  /-- `set_blinking m` (R186). -/
  | setBlinking (m : BitVec 8)
  /-- `set b0, .., b7`, the eight bytes as `BMP` (R202, R71). -/
  | set (bitmap : BitVec 64)
  /-- `clear` (R204). -/
  | clear
  /-- `set_row r, v` (R206). -/
  | setRow (r : BitVec 4) (v : BitVec 8)
  /-- `clear_row r` (R208). -/
  | clearRow (r : BitVec 4)
  /-- `set_pixel r, c` (R210). -/
  | setPixel (r : BitVec 4) (c : BitVec 8)
  /-- `clear_pixel r, c` (R212). -/
  | clearPixel (r : BitVec 4) (c : BitVec 8)
  /-- `set_column c, v` (R214). -/
  | setColumn (c : BitVec 4) (v : BitVec 8)
  /-- `clear_column c` (R216). -/
  | clearColumn (c : BitVec 4)
  /-- Reserved selector 0x0, with its A and D bits (R75). -/
  | reservedOp0 (a : BitVec 4) (d : BitVec 8)
  /-- Reserved selector 0xD (R75). -/
  | reservedOpD (a : BitVec 4) (d : BitVec 8)
  /-- Reserved selector 0xE (R75). -/
  | reservedOpE (a : BitVec 4) (d : BitVec 8)
  /-- Reserved selector 0xF (R75). -/
  | reservedOpF (a : BitVec 4) (d : BitVec 8)
  deriving DecidableEq, Repr

end Sys2Proof
end

