-- ==== Sys2Proof/WellFormed.lean ====
section
/-! DEFINITION. The checks an instruction passes before it performs (43_controller_commands.md R170):
no reserved selector, every coordinate in [0,8), brightness in [0,15], blink mode in [0,3]
(30_encoding.md R72, R75, R77, R78).

"Well formed" here means that every operand is LEGAL in the sense of R72. The spec also calls a word
well formed when it merely fits its pattern (R77); every `Instr` does that by its types, and the
statements about decoding and about running need no premise (log entry 15). -/

namespace Sys2Proof

/-- The instruction is one of the twelve commands, not a reserved selector (R75). -/
def Instr.notReserved : Instr → Bool
  | .reservedOp0 _ _ | .reservedOpD _ _ | .reservedOpE _ _ | .reservedOpF _ _ => false
  | _ => true

/-- Every coordinate of the instruction is in [0,8) (R72, R77): `idx` of the row, pixel and column
commands, and `dat` of the pixel commands. -/
def Instr.coordinatesLegal : Instr → Bool
  | .setRow r _ | .clearRow r => decide (r.toNat < 8)
  | .setPixel r c | .clearPixel r c => decide (r.toNat < 8) && decide (c.toNat < 8)
  | .setColumn c _ | .clearColumn c => decide (c.toNat < 8)
  | _ => true

/-- The brightness or blink mode of the instruction is in its range (R72, R78). -/
def Instr.valueLegal : Instr → Bool
  | .setBrightness v => decide (v.toNat ≤ 15)
  | .setBlinking m => decide (m.toNat ≤ 3)
  | _ => true

/-- Every operand is legal: the instruction passes every check of the command cycle (R170). -/
abbrev Instr.WellFormed (i : Instr) : Prop :=
  i.notReserved = true ∧ i.coordinatesLegal = true ∧ i.valueLegal = true

end Sys2Proof
end

