-- ==== Sys2Proof/Decode.lean ====
section
/-! DEFINITION. The command encoding (30_encoding.md): the field split R70 and R72, the decoder R74,
total on every 16-bit word, the encoder R83, and the opcode map R73 as data. -/

namespace Sys2Proof

/-- Why the decoder rejects a word. -/
inductive DecodeReject where
  /-- The word's selector names a command (0x1 to 0xC) and a must-be-zero field is not zero (R76). -/
  | mustBeZero (word : CommandWord)
  deriving DecidableEq, Repr

/-- The operation selector `CMD[15:12]` (R70). -/
def fieldOp (w : CommandWord) : BitVec 4 := w.extractLsb' 12 4

/-- The index operand `CMD[11:8]` (R70, R72). -/
def fieldA (w : CommandWord) : BitVec 4 := w.extractLsb' 8 4

/-- The data operand `CMD[7:0]` (R70, R72). -/
def fieldD (w : CommandWord) : BitVec 8 := w.extractLsb' 0 8

/-- A word from its three fields (R70). -/
def packWord (op a : BitVec 4) (d : BitVec 8) : CommandWord := op ++ a ++ d

/-- Accept `i` if the must-be-zero fields are zero, else reject the word (R76). -/
def acceptIf (mbzZero : Bool) (w : CommandWord) (i : Instr) : Except DecodeReject Instr :=
  if mbzZero then .ok i else .error (.mustBeZero w)

/-- The decoder (R74), on the command word and the bitmap operand presented with it. Only `set` samples
the bitmap (R71). It checks neither coordinates nor value ranges. -/
def decode (w : CommandWord) (bmp : Bitmap) : Except DecodeReject Instr :=
  let idx := fieldA w
  let dat := fieldD w
  match (fieldOp w).toNat with
  | 0x0 => .ok (.reservedOp0 idx dat)
  | 0x1 => acceptIf (idx == 0 && dat == 0) w .on
  | 0x2 => acceptIf (idx == 0 && dat == 0) w .off
  | 0x3 => acceptIf (idx == 0) w (.setBrightness dat)
  | 0x4 => acceptIf (idx == 0) w (.setBlinking dat)
  | 0x5 => acceptIf (idx == 0 && dat == 0) w (.set bmp)
  | 0x6 => acceptIf (idx == 0 && dat == 0) w .clear
  | 0x7 => .ok (.setRow idx dat)
  | 0x8 => acceptIf (dat == 0) w (.clearRow idx)
  | 0x9 => .ok (.setPixel idx dat)
  | 0xA => .ok (.clearPixel idx dat)
  | 0xB => .ok (.setColumn idx dat)
  | 0xC => acceptIf (dat == 0) w (.clearColumn idx)
  | 0xD => .ok (.reservedOpD idx dat)
  | 0xE => .ok (.reservedOpE idx dat)
  | _ => .ok (.reservedOpF idx dat)  -- 0xF, the one selector left

/-- The command word of an instruction (R73, R83). -/
def encode : Instr → CommandWord
  | .on => packWord 0x1 0 0
  | .off => packWord 0x2 0 0
  | .setBrightness v => packWord 0x3 0 v
  | .setBlinking m => packWord 0x4 0 m
  | .set _ => packWord 0x5 0 0
  | .clear => packWord 0x6 0 0
  | .setRow r v => packWord 0x7 r v
  | .clearRow r => packWord 0x8 r 0
  | .setPixel r c => packWord 0x9 r c
  | .clearPixel r c => packWord 0xA r c
  | .setColumn c v => packWord 0xB c v
  | .clearColumn c => packWord 0xC c 0
  | .reservedOp0 a d => packWord 0x0 a d
  | .reservedOpD a d => packWord 0xD a d
  | .reservedOpE a d => packWord 0xE a d
  | .reservedOpF a d => packWord 0xF a d

/-- The bitmap operand presented with an instruction's word (R71): that of `set`; every other command
ignores it, and zero is presented. -/
def encodeBitmap : Instr → Bitmap
  | .set b => b
  | _ => 0

/-- The bits of an instruction that its pattern fixes: the mask column of the opcode map (R73). -/
def Instr.mask : Instr → CommandWord
  | .on | .off | .set _ | .clear => 0xFFFF
  | .setBrightness _ | .setBlinking _ => 0xFF00
  | .clearRow _ | .clearColumn _ => 0xF0FF
  | .setRow _ _ | .setPixel _ _ | .clearPixel _ _ | .setColumn _ _ => 0xF000
  | .reservedOp0 _ _ | .reservedOpD _ _ | .reservedOpE _ _ | .reservedOpF _ _ => 0xF000

/-- The value of the fixed bits: the match column of the opcode map (R73). -/
def Instr.pattern : Instr → CommandWord
  | .on => 0x1000
  | .off => 0x2000
  | .setBrightness _ => 0x3000
  | .setBlinking _ => 0x4000
  | .set _ => 0x5000
  | .clear => 0x6000
  | .setRow _ _ => 0x7000
  | .clearRow _ => 0x8000
  | .setPixel _ _ => 0x9000
  | .clearPixel _ _ => 0xA000
  | .setColumn _ _ => 0xB000
  | .clearColumn _ => 0xC000
  | .reservedOp0 _ _ => 0x0000
  | .reservedOpD _ _ => 0xD000
  | .reservedOpE _ _ => 0xE000
  | .reservedOpF _ _ => 0xF000

/-- The sixteen rows of the opcode map as (match, mask) pairs, in selector order (R73). -/
def opcodeRows : List (CommandWord × CommandWord) :=
  [(0x0000, 0xF000), (0x1000, 0xFFFF), (0x2000, 0xFFFF), (0x3000, 0xFF00)] ++
  [(0x4000, 0xFF00), (0x5000, 0xFFFF), (0x6000, 0xFFFF), (0x7000, 0xF000)] ++
  [(0x8000, 0xF0FF), (0x9000, 0xF000), (0xA000, 0xF000), (0xB000, 0xF000)] ++
  [(0xC000, 0xF0FF), (0xD000, 0xF000), (0xE000, 0xF000), (0xF000, 0xF000)]

/-- The instruction an opcode-table row's bits stand for: the low 16 bits are the command word, and the
bits above them, numbered on from it, are `BMP[63:0]` (log entry 20). Bits from `nbits` up are zero. -/
def decodeTableWord (nbits w : Nat) : Option Instr :=
  let v := w % 2 ^ nbits
  match decode (BitVec.ofNat 16 v) (BitVec.ofNat 64 (v / 2 ^ 16)) with
  | .ok i => some i
  | .error _ => none

end Sys2Proof
end

