-- ==== Sys2Proof/Config.lean ====
section
/-! DEFINITION. What an implementation fixes (00_scope.md R14) and the free values: constants without a
body, one for each value the spec leaves open. Nothing in Lean can evaluate a free value, so what is
proved of one holds for every value of it. Each takes the number of a draw (the counter `draws` of the
state), so two draws are unrelated. -/

namespace Sys2Proof

/-- `P_COLUMN_ORDER`: which end of the `set_column` byte is row 0 (R14, 40_bit_transform.md R105). -/
inductive ColumnOrder where
  /-- Bit 7 of the byte goes to row 0: the spec's decision (92_eei_decisions.md D8). -/
  | msbTop
  /-- Bit 0 of the byte goes to row 0: the alternative the spec keeps. -/
  | lsbTop
  deriving DecidableEq, Repr

/-- What one Transport write returns (R12). -/
inductive TransportResult where
  | ok
  | fail
  deriving DecidableEq, Repr, Inhabited

/-- The default of `P_DEVICE_ADDRESS` (R14). -/
def Config.defaultAddress : DeviceAddress := 0x70

/-- The spec's decision for `P_COLUMN_ORDER` (R14, D8). -/
def Config.columnOrder : ColumnOrder := .msbTop

/-- `P_INIT_BRIGHTNESS` of the reset that leads to `State.reset`: a required reset parameter without a
default (R14, R281, N6). A free constant: log entry 2. -/
opaque Config.initBrightness : BitVec 4

/-- The result of a Transport write the environment has not fixed in the state (R150, D23, U16): a free
draw. Log entry 4. -/
opaque Config.transportResult : Nat → TransportResult

/-- How many bytes of its frame a failed write delivered to the chip (R152, D23, U4): a free value; a
number beyond the frame's length means all of it. Log entry 12. -/
opaque Config.deliveredLength : Nat → Nat

/-- The content of a row where the spec leaves `ROWS` unspecified (R36, R38, U3, U5, U6). Log entry 5. -/
opaque Config.unspecifiedRow : Nat → Nat → Byte

/-- `ON` where the spec leaves it unspecified (R36, R38). Log entry 5. -/
opaque Config.unspecifiedOn : Nat → Bool

/-- `BLINK` where the spec leaves it unspecified (R36, R38). Log entry 5. -/
opaque Config.unspecifiedBlink : Nat → BitVec 2

/-- `BRIGHT` where the spec leaves it unspecified (R36, R38). Log entry 5. -/
opaque Config.unspecifiedBright : Nat → BitVec 4

/-- `DEVADDR` before the first reset (R36). Log entry 5. -/
opaque Config.unspecifiedDevaddr : Nat → DeviceAddress

/-- The Transport writes of a command that faulted, each with its result: whether there was any, and
what it carried, is unspecified (60_exceptions.md R250, U3). Log entry 6. -/
opaque Config.faultTraffic : Nat → List (List Byte × TransportResult)

/-- Whether `[0x21]` is among bytes of which nothing is known that reach the chip (R250). Log entry 13. -/
opaque Config.unspecifiedChipOsc : Nat → Bool

/-- The chip's display-on flag where nothing is known of the chip (U17). Log entry 13. -/
opaque Config.unspecifiedChipOn : Nat → Bool

/-- The chip's blink mode where nothing is known of the chip (U17). Log entry 13. -/
opaque Config.unspecifiedChipBlink : Nat → BitVec 2

/-- The chip's brightness where nothing is known of the chip (U17). Log entry 13. -/
opaque Config.unspecifiedChipDimming : Nat → BitVec 4

/-- The chip's RAM pointer where nothing is known of the chip (U17). Log entry 13. -/
opaque Config.unspecifiedChipPointer : Nat → BitVec 4

end Sys2Proof
end

