-- ==== Sys2Proof/Machine/Memory.lean ====
section
/-! DEFINITION. Memory as a list of (address, byte) cells in one canonical form: addresses strictly
rising. The framebuffer `ROWS` is the block's only memory (00_scope.md R17, 10_state.md R20, R32): eight
1-byte locations, addresses 0 to 7. A row that is not listed reads 0x00, its content after reset (R37),
and no row is listed with that value. The chip's display RAM (60_exceptions.md R271) uses the same cells;
there an address that is not listed has no known value. -/

namespace Sys2Proof.Machine

/-- The framebuffer. -/
abbrev Memory := List Host.Cell

/-- The byte listed at address `a`. -/
def cellAt : List Host.Cell → Nat → Option Byte
  | [], _ => none
  | (b, w) :: rest, a => if a = b then some w else cellAt rest a

/-- List byte `v` at address `a`, keeping the addresses in rising order. -/
def putCell : List Host.Cell → Nat → Byte → List Host.Cell
  | [], a, v => [(a, v)]
  | (b, w) :: rest, a, v =>
    if a < b then (a, v) :: (b, w) :: rest
    else if a = b then (a, v) :: rest
    else (b, w) :: putCell rest a v

/-- List nothing at address `a`. -/
def dropCell (m : List Host.Cell) (a : Nat) : List Host.Cell := m.filter (fun c => c.1 ≠ a)

/-- What an unlisted row reads as: the reset content of `ROWS` (R37). -/
def Memory.unlisted : Byte := 0x00

/-- `MemRead(a, 1)`: the byte of row `a` (R17). Reading has no side effect (R55). -/
def Memory.read (m : Memory) (a : Nat) : Byte := (cellAt m a).getD Memory.unlisted

/-- `MemWrite(a, 1, v)`: write row `a` (R17), keeping the canonical form. -/
def Memory.write (m : Memory) (a : Nat) (v : Byte) : Memory :=
  if v = Memory.unlisted then dropCell m a else putCell m a v

/-- The canonical form of the framebuffer: rising addresses, all below 8 (R20), none listed with the
value it would read unlisted. -/
abbrev Memory.wf (m : Memory) : Prop :=
  m.Pairwise (fun x y => x.1 < y.1) ∧ ∀ c ∈ m, c.1 < 8 ∧ c.2 ≠ Memory.unlisted

end Sys2Proof.Machine
end

