-- ==== Sys2Proof/Machine/Chip.lean ====
section
/-! DEFINITION. The attached display chip, by the spec's informative reference reading
(60_exceptions.md R267 to R272, 20_memory.md R56). It is outside the block (00_scope.md R8 (e)); no
meaning of a command reads it. PRESUMED, unsafe: parts of the reading are the spec's general knowledge,
not its source's (93_implementation_defined.md G1 to G3); log entries 11 and 13. -/

namespace Sys2Proof.Machine

open Sys2Proof

/-- The chip's registers (10_state.md R34 (b)). -/
structure Chip where
  /-- The bus address the chip answers to (R26). -/
  addr : DeviceAddress
  /-- The chip has received `[0x21]` (R268, R272), so its oscillator runs. Once received it stays so. -/
  osc : Bool
  /-- The display-on flag (R269). -/
  displayOn : Bool
  /-- The blink mode (R269). -/
  blink : BitVec 2
  /-- The brightness (R270). -/
  dimming : BitVec 4
  /-- The display-RAM pointer (R271). -/
  pointer : BitVec 4
  /-- The display RAM, addresses 0x00 to 0x0F; an unlisted address has no known value (U12, U17). -/
  ram : List Host.Cell
  deriving DecidableEq, Repr

/-- The chip at power-up: its registers are free values and no RAM byte is known (U17), but it has not
received `[0x21]`, so it drives no LED (R268, 70_reset_and_hazards.md R294). -/
def Chip.powerUp (n : Nat) (addr : DeviceAddress) : Chip :=
  { addr := addr
    osc := false
    displayOn := Config.unspecifiedChipOn n
    blink := Config.unspecifiedChipBlink n
    dimming := Config.unspecifiedChipDimming n
    pointer := Config.unspecifiedChipPointer n
    ram := [] }

/-- The chip after bytes to which the spec gives no meaning, or of which nothing is known: free values,
no known RAM byte. A `[0x21]` received before stays received; whether one came among them is free. -/
def Chip.unspecified (n : Nat) (c : Chip) : Chip :=
  { Chip.powerUp n c.addr with osc := c.osc || Config.unspecifiedChipOsc n }

/-- Store bytes at the pointer, which increments after each (R271). -/
def Chip.store : List Byte → Chip → Chip
  | [], c => c
  | b :: rest, c =>
    Chip.store rest { c with ram := putCell c.ram c.pointer.toNat b, pointer := c.pointer + 1 }

/-- A one-byte chip command (R268 to R270). No frame of the block carries any other byte here (R56 (c)),
and the spec gives no other byte a meaning: the chip is then unspecified. -/
def Chip.command (n : Nat) (b : Byte) (c : Chip) : Chip :=
  if b = 0x21 then { c with osc := true }
  else if b &&& 0xF8 = 0x80 then { c with displayOn := b.getLsbD 0, blink := b.extractLsb' 1 2 }
  else if b &&& 0xF0 = 0xE0 then { c with dimming := b.extractLsb' 0 4 }
  else Chip.unspecified n c

/-- The chip takes the bytes of one write: a first byte in 0x00..0x0F sets the RAM pointer and the rest
is stored (R271); a single byte above is a command. -/
def Chip.accept (n : Nat) : List Byte → Chip → Chip
  | [], c => c
  | p :: data, c =>
    if p.toNat < 16 then Chip.store data { c with pointer := p.extractLsb' 0 4 }
    else if data = [] then Chip.command n p c
    else Chip.unspecified n c

/-- What a write to device address `dest` does to the chip: nothing unless it is the chip's own. -/
def Chip.receive (n : Nat) (dest : DeviceAddress) (bytes : List Byte) (c : Chip) : Chip :=
  if dest = c.addr then Chip.accept n bytes c else c

/-- The canonical form of the display RAM: rising addresses below 16. -/
abbrev Chip.wf (c : Chip) : Prop :=
  c.ram.Pairwise (fun x y => x.1 < y.1) ∧ ∀ x ∈ c.ram, x.1 < 16

/-- Whether pixel (r, c) is lit, blink phase and dimming apart (R272): not lit before `[0x21]` is received
(R268) or with the display-on flag 0, whatever the RAM holds; else bit c of RAM byte `2r`, and nothing
where that byte has no known value. -/
def Chip.lit (k : Chip) (r c : Fin 8) : Option Bool :=
  if k.osc && k.displayOn then (cellAt k.ram (2 * r.val)).map (fun b => b.getLsbD c.val)
  else some false

end Sys2Proof.Machine
end

