-- ==== Sys2Proof/Machine/State.lean ====
section
/-! DEFINITION. The state of the block as plain data (10_state.md R20 to R38), the faults and refusals
(60_exceptions.md R250 to R253), and the states after power-up (R36) and after reset (R37). -/

namespace Sys2Proof.Machine

open Sys2Proof

/-- The life state `LIFE` (R27). -/
inductive Life where
  | unreset
  | ready
  | failed
  | faulted
  deriving DecidableEq, Repr

/-- The response status of a transaction (R240). -/
inductive Status where
  | ok
  | invalidArgument
  | transportFailure
  | illegalCommand
  deriving DecidableEq, Repr

/-- One entry of the observable trace (R13). -/
inductive Event where
  /-- A Transport transaction: device address, exact bytes, the result returned (R12, R13). -/
  | write (addr : DeviceAddress) (bytes : List Byte) (result : TransportResult)
  /-- The response of a completed transaction (R11, R240). -/
  | response (status : Status)
  deriving DecidableEq, Repr

/-- What the host presents on the command port (R10, R11). -/
inductive HostAction where
  /-- A reset with `P_DEVICE_ADDRESS` (`none`: its default) and `P_INIT_BRIGHTNESS` (R280, R281). -/
  | reset (address : Option Nat) (brightness : Nat)
  /-- A command word with the bitmap operand (R11). -/
  | command (word : CommandWord) (bmp : Bitmap)
  /-- A command or reset presented while a transaction is in progress (R253, R290). -/
  | overlap
  deriving DecidableEq, Repr

/-- The block, its ports, and the attached chip. -/
structure State where
  /-- `ROWS[0..7]` (R20), the framebuffer. -/
  rows : Memory
  /-- `ON` (R23). -/
  on : Bool
  /-- `BLINK` (R24). -/
  blink : BitVec 2
  /-- `BRIGHT` (R25). -/
  bright : BitVec 4
  /-- `DEVADDR` (R26). -/
  devaddr : DeviceAddress
  /-- `LIFE` (R27). -/
  life : Life
  /-- The parameter `P_COLUMN_ORDER` (R14, R105); nothing writes it. -/
  columnOrder : ColumnOrder
  /-- What the host has still to present, oldest first (R10, R21). -/
  pending : List HostAction
  /-- The results the environment has fixed for the coming writes, next first (R12, D23). -/
  results : List TransportResult
  /-- The observable trace, oldest first (R13). -/
  trace : List Event
  /-- The model's own count of free draws. -/
  draws : Nat
  /-- The attached display chip (R267); no meaning reads it. -/
  chip : Chip
  deriving DecidableEq, Repr

/-- Why the block stops with a fault. -/
inductive Fault where
  /-- COORDINATE_UNDEFINED (R250): raised by a row, pixel or column command with a coordinate of 8 or
  more. It records the command word. `after` is the state the block is left in: `LIFE = FAULTED`, with
  free values where R38 leaves it unspecified; from it only a reset leads on (R251). Safe: nothing can be
  proved of a faulted run's unspecified values (log entry 6). -/
  | coordinateUndefined (word : CommandWord) (after : State)
  deriving DecidableEq, Repr

/-- Why a transaction has no meaning. Each is a host duty broken (R252, R253); safe: the run is stopped
where the hardware's behaviour is not specified (log entry 7). -/
inductive Refusal where
  /-- An instruction without a meaning in this model. No arm of `exec` answers with it; safe. -/
  | notModelled (mnemonic : String)
  /-- NotReady: a command presented while `LIFE` is not READY (R252). Raised by every command; safe. -/
  | notReady (life : Life)
  /-- A transaction presented while another is in progress (R253, R290). Raised by the port; safe. -/
  | overlappingTransaction
  /-- A reset with `P_INIT_BRIGHTNESS` outside [0,15] (R253). Raised by the port; safe. -/
  | resetBrightness (brightness : Nat)
  /-- A reset with `P_DEVICE_ADDRESS` outside [0x00,0x7F] (R253). Raised by the port; safe. -/
  | resetAddress (address : Nat)
  deriving DecidableEq, Repr

/-- The outcome of one transaction. -/
abbrev StepOutcome := Host.Outcome State Fault Refusal

/-- The block at power-up (R36): `LIFE = UNRESET`, every other register unspecified, and a chip at
power-up (U17, R268). Draw 0 is taken here. -/
def State.powerUp : State :=
  { rows := (List.range 8).foldl (fun m a => m.write a (Config.unspecifiedRow 0 a)) []
    on := Config.unspecifiedOn 0
    blink := Config.unspecifiedBlink 0
    bright := Config.unspecifiedBright 0
    devaddr := Config.unspecifiedDevaddr 0
    life := .unreset
    columnOrder := Config.columnOrder
    pending := []
    results := []
    trace := []
    draws := 1
    chip := Chip.powerUp 0 Config.defaultAddress }

/-- The brightness byte of the reset that leads to `State.reset` (R280, W2). -/
def State.resetBrightnessByte : Byte := 0xE0 ||| Config.initBrightness.setWidth 8

/-- The machine right after reset: R37, reached from power-up by one reset transaction with the default
address and `P_INIT_BRIGHTNESS = Config.initBrightness` whose four writes returned `ok` (R280). The trace
holds those frames and the response; the chip has received them (log entries 1, 2, 13). -/
def State.reset : State :=
  { rows := []
    on := true
    blink := 0
    bright := Config.initBrightness
    devaddr := Config.defaultAddress
    life := .ready
    columnOrder := Config.columnOrder
    pending := []
    results := []
    trace :=
      [.write Config.defaultAddress [0x21] .ok,
       .write Config.defaultAddress [State.resetBrightnessByte] .ok,
       .write Config.defaultAddress (List.replicate 16 0x00) .ok,
       .write Config.defaultAddress [0x81] .ok,
       .response .ok]
    draws := 5
    chip :=
      { addr := Config.defaultAddress
        osc := true
        displayOn := true
        blink := 0
        dimming := Config.initBrightness
        pointer := 0xF
        ram := (List.range 15).map (fun a => (a, 0x00)) } }

end Sys2Proof.Machine
end

