-- ==== Sys2Proof/Machine/Flags.lean ====
section
/-! DEFINITION. The response status (60_exceptions.md R240). The block has no arithmetic flags and no
condition codes (10_state.md R29): STATUS is all there is, it is returned with the response, and it is
not retained. The other status-like bit, `ON`, is a register of the state (R23). -/

namespace Sys2Proof.Machine

open Sys2Proof

/-- `STATUS[1:0]` (R240). -/
def Status.code : Status → BitVec 2
  | .ok => 0
  | .invalidArgument => 1
  | .transportFailure => 2
  | .illegalCommand => 3

/-- The status of a command whose checks passed, from the result of its `Emit` (R172, R241, R244). -/
def statusOf : TransportResult → Status
  | .ok => .ok
  | .fail => .transportFailure

end Sys2Proof.Machine
end

