-- ==== Sys2Proof/Machine/BitTransform.lean ====
section
/-! DEFINITION. BitTransform (40_bit_transform.md): bit reversal, the column mask, and the column shift.
Pure functions on bytes; a column is a `Fin 8` because every coordinate is checked before any use
(R103, 43_controller_commands.md R170). -/

namespace Sys2Proof.Machine

open Sys2Proof

/-- `reverse_bits(x)`: bit k of the result is bit 7-k of `x` (R100). -/
def reverseBits (x : Byte) : Byte :=
  (List.range 8).foldl (fun y k => y ||| (BitVec.ofBool (x.getLsbD (7 - k))).setWidth 8 <<< k) 0

/-- `column_mask(c)` = `0x80 >> c` (R103). -/
def columnMask (c : Fin 8) : Byte := 0x80#8 >>> c.val

/-- `shift_bit_between_columns(byte, mask, from, to)` (R104), by the signed distance `from - to`. -/
def shiftBitBetweenColumns (byte mask : Byte) (fromCol toCol : Fin 8) : Byte :=
  let t := byte &&& mask
  let d : Int := (fromCol.val : Int) - (toCol.val : Int)
  if 0 ≤ d then t <<< d.toNat else t >>> (-d).toNat

/-- `src_col(r)`: the column of the operand byte that row `r` takes its bit from (R105). -/
def srcCol (order : ColumnOrder) (r : Fin 8) : Fin 8 :=
  match order with
  | .msbTop => r
  | .lsbTop => r.rev

/-- `col_contribution(byte, r, c)`: row r's contribution when `byte` is written into column c (R105). -/
def colContribution (order : ColumnOrder) (byte : Byte) (r c : Fin 8) : Byte :=
  shiftBitBetweenColumns byte (columnMask (srcCol order r)) (srcCol order r) c

end Sys2Proof.Machine
end

