-- ==== Sys2Proof/Machine/Operands.lean ====
section
/-! DEFINITION. The operand forms (30_encoding.md R72): plain unsigned fields, no sign extension, no
scaling. Each check answers the checked operand, so that no later function meets one out of range. -/

namespace Sys2Proof.Machine

open Sys2Proof

/-- A legal coordinate is in [0,8) (R72); `none` is the fault's case (R77). -/
def coordinate? (n : Nat) : Option (Fin 8) := if h : n < 8 then some ⟨n, h⟩ else none

/-- A legal brightness is in [0,15] (R72); `none` is INVALID_ARGUMENT (R78). -/
def brightness? (v : Byte) : Option (BitVec 4) :=
  if v.toNat ≤ 15 then some (v.extractLsb' 0 4) else none

/-- A legal blink mode is in [0,3] (R72); `none` is INVALID_ARGUMENT (R78). -/
def blinkMode? (m : Byte) : Option (BitVec 2) :=
  if m.toNat ≤ 3 then some (m.extractLsb' 0 2) else none

/-- Row `i` of the bitmap operand: `BMP[63-8i:56-8i]` (R71, 20_memory.md R53). -/
def bitmapRow (bmp : Bitmap) (i : Fin 8) : Byte := bmp.extractLsb' (56 - 8 * i.val) 8

end Sys2Proof.Machine
end

