-- ==== Sys2Proof/Machine/FrameBuffer.lean ====
section
/-! DEFINITION. The FrameBuffer functions (41_framebuffer.md R120 to R129): pure updates of `ROWS`, with
no frame and no status. -/

namespace Sys2Proof.Machine

open Sys2Proof

/-- Rows 0 to 7 in order. -/
def rowIndices : List (Fin 8) := [0, 1, 2, 3, 4, 5, 6, 7]

/-- `for r in 0..7 : ROWS[r] <- f(r, ROWS[r])`. -/
def forRows (f : Fin 8 → Byte → Byte) (m : Memory) : Memory :=
  rowIndices.foldl (fun m r => m.write r.val (f r (m.read r.val))) m

/-- `fb_set_pixel(r, c)` (R121). -/
def fbSetPixel (m : Memory) (r c : Fin 8) : Memory :=
  m.write r.val (m.read r.val ||| columnMask c)

/-- `fb_clear_pixel(r, c)` (R122). -/
def fbClearPixel (m : Memory) (r c : Fin 8) : Memory :=
  m.write r.val (m.read r.val &&& ~~~columnMask c)

/-- `fb_set_row(r, v)` (R123). -/
def fbSetRow (m : Memory) (r : Fin 8) (v : Byte) : Memory := m.write r.val v

/-- `fb_clear_row(r)` (R124). -/
def fbClearRow (m : Memory) (r : Fin 8) : Memory := m.write r.val 0x00

/-- `fb_clear_column(c)` (R126). -/
def fbClearColumn (m : Memory) (c : Fin 8) : Memory :=
  forRows (fun _ v => v &&& ~~~columnMask c) m

/-- `fb_set_column(c, v)` (R125): clear the column, then OR each row's contribution in; zero
short-circuits after the clear. -/
def fbSetColumn (order : ColumnOrder) (m : Memory) (c : Fin 8) (v : Byte) : Memory :=
  let cleared := fbClearColumn m c
  if v = 0x00 then cleared
  else forRows (fun r old => old ||| colContribution order v r c) cleared

/-- `fb_zero_all()` (R127). -/
def fbZeroAll (m : Memory) : Memory := forRows (fun _ _ => 0x00) m

/-- `fb_replace_all(bitmap)` (R128). -/
def fbReplaceAll (m : Memory) (bmp : Bitmap) : Memory := forRows (fun i _ => bitmapRow bmp i) m

end Sys2Proof.Machine
end

