-- ==== Sys2Proof/Machine/ProtocolEncoder.lean ====
section
/-! DEFINITION. ProtocolEncoder (42_protocol_encoder.md R140 to R146, 30_encoding.md R80): one pure
function per frame kind. Each reads the state as it stands after the command's own writes (R60, R140). -/

namespace Sys2Proof.Machine

open Sys2Proof

/-- The constant table `ROW_ADDR` (10_state.md R30). -/
def rowAddrTable : Vector Byte 8 := #v[0x00, 0x02, 0x04, 0x06, 0x08, 0x0A, 0x0C, 0x0E]

/-- `ROW_ADDR[r]` (R30). -/
def rowAddr (r : Fin 8) : Byte := rowAddrTable[r]

/-- `osc_frame()` (R141). -/
def oscFrame (_ : State) : List Byte := [0x21]

/-- `power_frame()` (R142). -/
def powerFrame (s : State) : List Byte :=
  if s.on then [0x81#8 ||| (s.blink.setWidth 8 <<< 1)] else [0x80]

/-- `brightness_frame()` (R143). -/
def brightnessFrame (s : State) : List Byte := [0xE0 ||| s.bright.setWidth 8]

/-- `row_frame(r)` (R144). -/
def rowFrame (r : Fin 8) (s : State) : List Byte := [rowAddr r, reverseBits (s.rows.read r.val)]

/-- `full_frame()` (R145): a zero byte before each row byte, rows in order. -/
def fullFrame (s : State) : List Byte :=
  rowIndices.flatMap (fun i => [0x00, reverseBits (s.rows.read i.val)])

end Sys2Proof.Machine
end

