-- ==== Sys2Proof/Machine/Ops.lean ====
section
/-! DEFINITION. The named operations the meanings are made of: register writes, `Emit`
(42_protocol_encoder.md R150), the response, the checks and endings of the command cycle
(43_controller_commands.md R170), the fault (60_exceptions.md R250), and the reset transaction
(70_reset_and_hazards.md R280). -/

namespace Sys2Proof.Machine

open Sys2Proof

/-- `ROWS <- m` (R17). -/
def State.setRows (m : Memory) (s : State) : State := { s with rows := m }

/-- `ON <- b` (R23). -/
def State.setOn (b : Bool) (s : State) : State := { s with on := b }

/-- `BLINK <- m` (R24). -/
def State.setBlink (m : BitVec 2) (s : State) : State := { s with blink := m }

/-- `BRIGHT <- v` (R25). -/
def State.setBright (v : BitVec 4) (s : State) : State := { s with bright := v }

/-- `DEVADDR <- a` (R26). -/
def State.setDevaddr (a : DeviceAddress) (s : State) : State := { s with devaddr := a }

/-- `LIFE <- l` (R27). -/
def State.setLife (l : Life) (s : State) : State := { s with life := l }

/-- The host's first presented transaction is taken from the port (R11). -/
def State.takeAction (s : State) : State := { s with pending := s.pending.tail }

/-- The result the environment gives the next Transport write: the one it has fixed, else a free draw
(R150, D23, U16). -/
def State.nextResult (s : State) : TransportResult :=
  match s.results with
  | r :: _ => r
  | [] => Config.transportResult s.draws

/-- The bytes of a frame that reach the chip: all of them when the write is `ok`, else some prefix
(R152, D23). -/
def State.deliveredBytes (frame : List Byte) (s : State) : List Byte :=
  match s.nextResult with
  | .ok => frame
  | .fail => frame.take (Config.deliveredLength s.draws)

/-- The state after `TransportWrite(DEVADDR, frame)` (R150): the transaction is in the trace (R13), one
draw is used, and the chip has the delivered bytes. No register of the block changes. -/
def State.afterWrite (frame : List Byte) (s : State) : State :=
  { s with
    trace := s.trace ++ [.write s.devaddr frame s.nextResult]
    results := s.results.tail
    draws := s.draws + 1
    chip := s.chip.receive s.draws s.devaddr (s.deliveredBytes frame) }

/-- `Emit(frame)`: exactly one Transport write, and its result (R150). -/
def emit (frame : List Byte) (s : State) : TransportResult × State := (s.nextResult, s.afterWrite frame)

/-- The response of a transaction goes to the host (R11); no register keeps it (R29). -/
def State.respond (st : Status) (s : State) : State := { s with trace := s.trace ++ [.response st] }

/-- End a transaction with a status (R172). -/
def complete (st : Status) (s : State) : StepOutcome := .next (s.respond st)

/-- The end of `perform`: one `Emit` of a frame computed from the written state (R60), and the status of
its result (R170, R172). The state writes stay whatever it is (R171). -/
def emitAndComplete (frame : State → List Byte) (s : State) : StepOutcome :=
  match emit (frame s) s with
  | (res, s') => complete (statusOf res) s'

/-- `ROWS`, `ON`, `BLINK` and `BRIGHT` hold unspecified values (R38): free values of one draw. -/
def State.unspecify (s : State) : State :=
  { s with
    rows := forRows (fun r _ => Config.unspecifiedRow s.draws r.val) s.rows
    on := Config.unspecifiedOn s.draws
    blink := Config.unspecifiedBlink s.draws
    bright := Config.unspecifiedBright s.draws
    draws := s.draws + 1 }

/-- The Transport activity of a faulted command: whether there was any and what it carried is
unspecified (R250), so it is a free value, and nothing is known of the chip after it. It goes to `DEVADDR`
(42_protocol_encoder.md R151), so a chip at another address is as before. -/
def State.unspecifiedTraffic (s : State) : State :=
  { s with
    trace := s.trace ++ (Config.faultTraffic s.draws).map (fun w => .write s.devaddr w.1 w.2)
    draws := s.draws + 1
    chip := if s.devaddr = s.chip.addr then Chip.unspecified s.draws s.chip else s.chip }

/-- The state a COORDINATE_UNDEFINED fault leaves (R250, R38): `LIFE = FAULTED`, `DEVADDR` kept, the
rest unspecified; no response is given. -/
def State.afterFault (s : State) : State := (s.unspecifiedTraffic.unspecify).setLife .faulted

/-- `raise CoordinateUndefined` (R250): the one fault; it records the command word. -/
def raiseCoordinateUndefined (i : Instr) (s : State) : StepOutcome :=
  .fault (.coordinateUndefined (encode i) s.afterFault)

/-- The first check of the command cycle: outside READY a command is refused (R170, R252). -/
def whenReady (s : State) (run : StepOutcome) : StepOutcome :=
  if s.life = .ready then run else .refused (.notReady s.life)

/-- The coordinate check of the command cycle (R170, R77). -/
def withCoordinate (i : Instr) (n : Nat) (s : State) (run : Fin 8 → StepOutcome) : StepOutcome :=
  match coordinate? n with
  | some k => run k
  | none => raiseCoordinateUndefined i s

/-- A word that is not a command: ILLEGAL_COMMAND, no state change, no Transport write (R242), but a
refusal outside READY (R255). -/
def illegalCommand (s : State) : StepOutcome := whenReady s (complete .illegalCommand s)

/-- A reset whose write failed: no further write, `LIFE = FAILED`, TRANSPORT_FAILURE (R282), the
registers unspecified (R38). -/
def resetFailed (s : State) : StepOutcome :=
  complete .transportFailure ((s.unspecify).setLife .failed)

/-- One write of the reset sequence: on `fail` the reset ends, on `ok` it goes on (R280, R282). -/
def resetWrite (frame : State → List Byte) (s : State) (next : State → StepOutcome) : StepOutcome :=
  match emit (frame s) s with
  | (.ok, s') => next s'
  | (.fail, s') => resetFailed s'

/-- The reset sequence W1 to W4 (R280), with legal parameters. It runs in any `LIFE` state (R283). -/
def resetBlock (address : DeviceAddress) (brightness : BitVec 4) (s : State) : StepOutcome :=
  resetWrite oscFrame (s.setDevaddr address) fun s1 =>
  resetWrite brightnessFrame (s1.setBright brightness) fun s2 =>
  resetWrite fullFrame (s2.setRows (fbZeroAll s2.rows)) fun s3 =>
  resetWrite powerFrame ((s3.setBlink 0).setOn true) fun s4 =>
  complete .ok (s4.setLife .ready)

/-- The reset transaction with the parameters as presented: refused outside their ranges (R253); an
address that is not presented is the default (R281). -/
def resetTransaction (address : Option Nat) (brightness : Nat) (s : State) : StepOutcome :=
  let a := address.getD Config.defaultAddress.toNat
  if 15 < brightness then .refused (.resetBrightness brightness)
  else if 0x7F < a then .refused (.resetAddress a)
  else resetBlock (BitVec.ofNat 7 a) (BitVec.ofNat 4 brightness) s

end Sys2Proof.Machine
end

