-- ==== Sys2Proof/Machine/Buffer.lean ====
section
/-! DEFINITION. The buffer commands (44_buffer_commands.md R200 to R218): each updates `ROWS` by one
FrameBuffer function and emits one frame, the row frame of its row or the full frame (R200), whatever
`ON` is (R201) and whether or not a bit changed. -/

namespace Sys2Proof.Machine

open Sys2Proof

/-- `set b0, .., b7` (R202, R203). -/
def execSet (bitmap : BitVec 64) (s : State) : StepOutcome :=
  whenReady s (emitAndComplete fullFrame (s.setRows (fbReplaceAll s.rows bitmap)))

/-- `clear` (R204, R205). -/
def execClear (s : State) : StepOutcome :=
  whenReady s (emitAndComplete fullFrame (s.setRows (fbZeroAll s.rows)))

/-- `set_row r, v` (R206, R207). -/
def execSetRow (r : BitVec 4) (v : BitVec 8) (s : State) : StepOutcome :=
  whenReady s <|
    withCoordinate (.setRow r v) r.toNat s fun row =>
      emitAndComplete (rowFrame row) (s.setRows (fbSetRow s.rows row v))

/-- `clear_row r` (R208, R209). -/
def execClearRow (r : BitVec 4) (s : State) : StepOutcome :=
  whenReady s <|
    withCoordinate (.clearRow r) r.toNat s fun row =>
      emitAndComplete (rowFrame row) (s.setRows (fbClearRow s.rows row))

/-- `set_pixel r, c` (R210, R211). The row is checked first, then the column (R255). -/
def execSetPixel (r : BitVec 4) (c : BitVec 8) (s : State) : StepOutcome :=
  whenReady s <|
    withCoordinate (.setPixel r c) r.toNat s fun row =>
      withCoordinate (.setPixel r c) c.toNat s fun col =>
        emitAndComplete (rowFrame row) (s.setRows (fbSetPixel s.rows row col))

/-- `clear_pixel r, c` (R212, R213). -/
def execClearPixel (r : BitVec 4) (c : BitVec 8) (s : State) : StepOutcome :=
  whenReady s <|
    withCoordinate (.clearPixel r c) r.toNat s fun row =>
      withCoordinate (.clearPixel r c) c.toNat s fun col =>
        emitAndComplete (rowFrame row) (s.setRows (fbClearPixel s.rows row col))

/-- `set_column c, v` (R214, R215), by the block's `P_COLUMN_ORDER` (R105). -/
def execSetColumn (c : BitVec 4) (v : BitVec 8) (s : State) : StepOutcome :=
  whenReady s <|
    withCoordinate (.setColumn c v) c.toNat s fun col =>
      emitAndComplete fullFrame (s.setRows (fbSetColumn s.columnOrder s.rows col v))

/-- `clear_column c` (R216, R217). -/
def execClearColumn (c : BitVec 4) (s : State) : StepOutcome :=
  whenReady s <|
    withCoordinate (.clearColumn c) c.toNat s fun col =>
      emitAndComplete fullFrame (s.setRows (fbClearColumn s.rows col))

end Sys2Proof.Machine
end

