-- ==== Sys2Proof/Machine/Control.lean ====
section
/-! DEFINITION. The control commands (43_controller_commands.md R180 to R187). -/

namespace Sys2Proof.Machine

open Sys2Proof

/-- `on` (R180, R181): `ON <- 1`, then the power frame with the current blink mode. -/
def execOn (s : State) : StepOutcome := whenReady s (emitAndComplete powerFrame (s.setOn true))

/-- `off` (R182, R183): `ON <- 0`, then the off byte. -/
def execOff (s : State) : StepOutcome := whenReady s (emitAndComplete powerFrame (s.setOn false))

/-- `set_brightness v` (R184, R185): INVALID_ARGUMENT above 15, else `BRIGHT <- v` and the brightness
frame, whatever `ON` is. -/
def execSetBrightness (v : BitVec 8) (s : State) : StepOutcome :=
  whenReady s <|
    match brightness? v with
    | none => complete .invalidArgument s
    | some b => emitAndComplete brightnessFrame (s.setBright b)

/-- `set_blinking m` (R186, R187): INVALID_ARGUMENT above 3, else `BLINK <- m`; the power frame is
emitted only while `ON = 1`, and otherwise the mode is latched and the status is OK. -/
def execSetBlinking (m : BitVec 8) (s : State) : StepOutcome :=
  whenReady s <|
    match blinkMode? m with
    | none => complete .invalidArgument s
    | some b =>
      if s.on then emitAndComplete powerFrame (s.setBlink b) else complete .ok (s.setBlink b)

end Sys2Proof.Machine
end

