-- ==== Sys2Proof/Machine/Reserved.lean ====
section
/-! DEFINITION. The reserved selectors (30_encoding.md R75): each completes with ILLEGAL_COMMAND, with no
state change and no Transport write, whatever its A and D bits are. -/

namespace Sys2Proof.Machine

open Sys2Proof

/-- Selector 0x0 (R75). -/
def execReservedOp0 (s : State) : StepOutcome := illegalCommand s

/-- Selector 0xD (R75). -/
def execReservedOpD (s : State) : StepOutcome := illegalCommand s

/-- Selector 0xE (R75). -/
def execReservedOpE (s : State) : StepOutcome := illegalCommand s

/-- Selector 0xF (R75). -/
def execReservedOpF (s : State) : StepOutcome := illegalCommand s

end Sys2Proof.Machine
end

