-- ==== Sys2Proof/Machine/Dispatch.lean ====
section
/-! DEFINITION. The dispatch: one arm per constructor of `Instr`, each one direct call of that
instruction's meaning. -/

namespace Sys2Proof.Machine

open Sys2Proof

/-- What an instruction does (43_controller_commands.md R170). -/
def exec (i : Instr) (s : State) : Host.Outcome State Fault Refusal :=
  match i with
  | .on => Sys2Proof.Machine.execOn s
  | .off => Sys2Proof.Machine.execOff s
  | .setBrightness v => Sys2Proof.Machine.execSetBrightness v s
  | .setBlinking m => Sys2Proof.Machine.execSetBlinking m s
  | .set bitmap => Sys2Proof.Machine.execSet bitmap s
  | .clear => Sys2Proof.Machine.execClear s
  | .setRow r v => Sys2Proof.Machine.execSetRow r v s
  | .clearRow r => Sys2Proof.Machine.execClearRow r s
  | .setPixel r c => Sys2Proof.Machine.execSetPixel r c s
  | .clearPixel r c => Sys2Proof.Machine.execClearPixel r c s
  | .setColumn c v => Sys2Proof.Machine.execSetColumn c v s
  | .clearColumn c => Sys2Proof.Machine.execClearColumn c s
  | .reservedOp0 _ _ => Sys2Proof.Machine.execReservedOp0 s
  | .reservedOpD _ _ => Sys2Proof.Machine.execReservedOpD s
  | .reservedOpE _ _ => Sys2Proof.Machine.execReservedOpE s
  | .reservedOpF _ _ => Sys2Proof.Machine.execReservedOpF s

end Sys2Proof.Machine
end

