-- ==== Sys2Proof/Machine/Port.lean ====
section
/-! DEFINITION. The command port (00_scope.md R11): one transaction of the host, to completion (R9). -/

namespace Sys2Proof.Machine

open Sys2Proof

/-- A command transaction (43_controller_commands.md R170): the decoder first, then the instruction; a
word the decoder rejects is ILLEGAL_COMMAND (30_encoding.md R76). Both are refused outside READY. -/
def presentCommand (word : CommandWord) (bmp : Bitmap) (s : State) : StepOutcome :=
  match decode word bmp with
  | .ok i => exec i s
  | .error (.mustBeZero _) => illegalCommand s

/-- What the host presents next (R11): a command, a reset (70_reset_and_hazards.md R280), or an overlap,
which is refused (60_exceptions.md R253). -/
def presentAction (act : HostAction) (s : State) : StepOutcome :=
  match act with
  | .command word bmp => presentCommand word bmp s
  | .reset address brightness => resetTransaction address brightness s
  | .overlap => .refused .overlappingTransaction

/-- One transaction of the block: the host's oldest pending action, taken from the port. With nothing
presented the block does nothing (00_scope.md R9). -/
def transact (s : State) : StepOutcome :=
  match s.pending with
  | [] => .next s
  | act :: _ => presentAction act s.takeAction

end Sys2Proof.Machine
end

