-- ==== Sys2Proof/Machine/Step.lean ====
section
/-! DEFINITION. One step of the machine is one transaction of the host, run to completion
(00_scope.md R9, 43_controller_commands.md R170). -/

namespace Sys2Proof.Machine

open Sys2Proof

/-- One transaction (R9). -/
def step : State → Host.Outcome State Fault Refusal := transact

/-- `s` with one command word presented next: its low 16 bits are the command word and the bits above
them `BMP[63:0]`, as `decodeTableWord` reads them (log entries 1 and 20). -/
def State.withFetchWord (s : State) (nbits w : Nat) : State :=
  let v := w % 2 ^ nbits
  { s with pending := .command (BitVec.ofNat 16 v) (BitVec.ofNat 64 (v / 2 ^ 16)) :: s.pending }

end Sys2Proof.Machine
end

