-- ==== Sys2Proof/Safety.lean ====
section
/-! DEFINITION. What statements speak about: the shadow relation between the registers and the trace
(20_memory.md R65) and the chip (R64), the canonical form of the state, and a whole run with its fault
record and refusal mark (60_exceptions.md R251, R252). -/

namespace Sys2Proof.Machine

open Sys2Proof

/-- The last Transport write of a trace whose bytes satisfy `p`, with its result. -/
def lastWrite (p : List Byte → Bool) (t : List Event) : Option (List Byte × TransportResult) :=
  t.foldl (fun acc e =>
    match e with
    | .write _ bytes res => if p bytes then some (bytes, res) else acc
    | .response _ => acc) none

/-- The frame covers row `r`: any full-buffer frame (16 bytes), or the row frame of `r` (R65). -/
def coversRow (r : Fin 8) (bytes : List Byte) : Bool :=
  bytes.length == 16 || (bytes.length == 2 && bytes.head? == some (rowAddr r))

/-- The byte at the row-`r` position of a covering frame (R65, 42_protocol_encoder.md R144, R145). -/
def rowByteOf (r : Fin 8) (bytes : List Byte) : Option Byte :=
  if bytes.length = 16 then bytes[2 * r.val + 1]? else bytes[1]?

/-- A power frame: one byte `0x80` to `0x87` (30_encoding.md R81). -/
def isPowerFrame : List Byte → Bool
  | [b] => b &&& 0xF8 == 0x80
  | _ => false

/-- A brightness frame: one byte `0xE0` to `0xEF` (30_encoding.md R81). -/
def isBrightnessFrame : List Byte → Bool
  | [b] => b &&& 0xF0 == 0xE0
  | _ => false

/-- The registers are a write-through shadow of the trace (R65 (a) to (c)): while READY, the last frame
that covers row r carried `reverse_bits(ROWS[r])`, and the last power and brightness frames carry the
current values, whatever the Transport returned. -/
def State.ShadowsTrace (s : State) : Prop :=
  s.life = .ready →
    (∀ r : Fin 8, ∃ bytes res, lastWrite (coversRow r) s.trace = some (bytes, res) ∧
      rowByteOf r bytes = some (reverseBits (s.rows.read r.val))) ∧
    (∃ res, lastWrite isPowerFrame s.trace =
      some ([if s.on then 0x81#8 ||| (s.blink.setWidth 8 <<< 1) else 0x80], res)) ∧
    (∃ res, lastWrite isBrightnessFrame s.trace = some ([0xE0 ||| s.bright.setWidth 8], res))

/-- The chip agrees with the registers wherever the last frame that carried them returned `ok` (R65, by
the reference reading R268 to R271): row r in RAM `2r`, the display-on flag, the blink mode while on, and
the brightness. Only while READY, and for a chip at `DEVADDR`. -/
def State.ChipAgrees (s : State) : Prop :=
  s.life = .ready → s.chip.addr = s.devaddr →
    (∀ r : Fin 8, ∀ bytes, lastWrite (coversRow r) s.trace = some (bytes, .ok) →
      cellAt s.chip.ram (2 * r.val) = some (reverseBits (s.rows.read r.val))) ∧
    (∀ bytes, lastWrite isPowerFrame s.trace = some (bytes, .ok) →
      s.chip.displayOn = s.on ∧ (s.on = true → s.chip.blink = s.blink)) ∧
    (∀ bytes, lastWrite isBrightnessFrame s.trace = some (bytes, .ok) →
      s.chip.dimming = s.bright)

/-- Framebuffer and display RAM are in canonical form. -/
def State.Canonical (s : State) : Prop := s.rows.wf ∧ s.chip.wf

/-- The oscillator of the chip runs whenever the block is READY and the chip is at `DEVADDR` (R268,
70_reset_and_hazards.md R285). -/
def State.OscillatorOn (s : State) : Prop :=
  s.life = .ready → s.chip.addr = s.devaddr → s.chip.osc = true

/-- The result the environment gives the `k`-th coming write: the one it has fixed, else the free draw of
that write (R12, 92_eei_decisions.md D23). -/
def State.resultAt (s : State) (k : Nat) : TransportResult :=
  match s.results[k]? with
  | some r => r
  | none => Config.transportResult (s.draws + k)

/-- The status of a transaction whose write returned `r` (43_controller_commands.md R172). -/
def statusFor (r : TransportResult) : Status := if r = .ok then .ok else .transportFailure

/-- From `s` to `t` exactly one frame was written, to `DEVADDR`, then the response was given: OK when the
write returned `ok`, else TRANSPORT_FAILURE (R59, R150, R172). The chip has the bytes that were
delivered. -/
def Reports (s t : State) (frame : List Byte) : Prop :=
  t.trace = s.trace ++
    [.write s.devaddr frame (s.resultAt 0), .response (statusFor (s.resultAt 0))] ∧
  t.results = s.results.tail ∧ t.draws = s.draws + 1 ∧
  t.chip = s.chip.receive s.draws s.devaddr (s.deliveredBytes frame)

/-- `ON`, `BLINK` and `BRIGHT` are unchanged. -/
def KeepsControl (s t : State) : Prop := t.on = s.on ∧ t.blink = s.blink ∧ t.bright = s.bright

/-- What no command changes: `DEVADDR`, `LIFE`, `P_COLUMN_ORDER` and what the host has still to present. -/
def KeepsIdentity (s t : State) : Prop :=
  t.devaddr = s.devaddr ∧ t.life = s.life ∧ t.columnOrder = s.columnOrder ∧ t.pending = s.pending

/-- A transaction that completes with a status and nothing else: no state change, no Transport write. -/
def onlyStatus (st : Status) (s : State) : StepOutcome :=
  .next { s with trace := s.trace ++ [.response st] }

/-- The outcome is the fault COORDINATE_UNDEFINED with the word recorded: `LIFE` is FAULTED, `DEVADDR` is
kept, nothing but Transport writes to `DEVADDR` entered the trace, so no status was returned (R250). -/
def FaultsWith (word : CommandWord) (s : State) (o : StepOutcome) : Prop :=
  ∃ t, o = .fault (.coordinateUndefined word t) ∧ t.life = .faulted ∧ t.devaddr = s.devaddr ∧
    ∃ ws : List (List Byte × TransportResult),
      t.trace = s.trace ++ ws.map (fun w => .write s.devaddr w.1 w.2)

/-- A word as the assembler builds it: `base | (a << 8) | d` (30_encoding.md R83). -/
def assembled (base : CommandWord) (a : BitVec 4) (d : BitVec 8) : CommandWord :=
  base ||| (a.setWidth 16 <<< 8) ||| d.setWidth 16

/-- The sixteen bytes of a full frame for eight row bytes in row order: a zero before each reversed row
(42_protocol_encoder.md R145). -/
def fullFrameOf (row : Fin 8 → Byte) : List Byte :=
  (List.ofFn row).flatMap (fun v => [0x00, reverseBits v])

/-- The frames W1 to W4 of a reset with brightness `b` (70_reset_and_hazards.md R280). -/
def resetFrames (b : BitVec 4) : List (List Byte) :=
  [[0x21], [0xE0 ||| b.setWidth 8], List.replicate 16 0x00, [0x81]]

/-- A whole run under a host: the block's state, the command words whose faults are recorded for the run
(R250, R251), and the refusal mark (R252). -/
structure RunRecord where
  state : State
  faults : List CommandWord
  refused : Bool
  deriving DecidableEq, Repr

/-- One transaction of a run. A fault is recorded and the run goes on from the state it leaves, from
which only a reset is accepted (R251, R283); a refused transaction sets the mark for the whole run and is
dropped. -/
def RunRecord.advance (r : RunRecord) : RunRecord :=
  match step r.state with
  | .next s => { r with state := s }
  | .fault (.coordinateUndefined w s) => { r with state := s, faults := r.faults ++ [w] }
  | .refused _ => { r with state := r.state.takeAction, refused := true }

/-- `n` transactions of a run. -/
def RunRecord.run : Nat → RunRecord → RunRecord
  | 0, r => r
  | n + 1, r => RunRecord.run n r.advance

/-- Claims are about runs without a fault and without a refusal (R250, R252). -/
def RunRecord.Meaningful (r : RunRecord) : Prop := r.faults = [] ∧ r.refused = false

end Sys2Proof.Machine
end

