-- ==== Sys2Proof/Certificates/Slice0/Obligations.lean ====
section
/-! DEFINITION. The statements for the provers. Each docstring names the rule of spec/ it formalises. -/

open Sys2Proof Sys2Proof.Machine

/-! ### Reset, power-up and the life state -/

/-- 10_state.md R37 for `State.reset`; the parameters of the reset that led to it are the model's (log
entries 1 and 2): the default address and the free constant `Config.initBrightness`. -/
def Obligations.ResetStateIsReadyAndZero : Prop :=
  State.reset.life = .ready ∧ (∀ r : Fin 8, State.reset.rows.read r.val = 0x00) ∧
  State.reset.on = true ∧ State.reset.blink = 0 ∧ State.reset.bright = Config.initBrightness ∧
  State.reset.devaddr = 0x70 ∧ State.reset.columnOrder = .msbTop

/-- 10_state.md R37 and 70_reset_and_hazards.md R283: a reset transaction with legal parameters whose four
writes return `ok`, presented in any `LIFE` state, writes W1 to W4 to the new address in that order,
answers OK, and leaves every row 0x00, `ON = 1`, `BLINK = 0`, `BRIGHT` and `DEVADDR` its parameters,
`LIFE = READY`; `ROW_ADDR` is the constant table. -/
def Obligations.SuccessfulResetLeavesInitialState : Prop :=
  ∀ (s : State) (a b : Nat) (rest : List HostAction), a ≤ 0x7F → b ≤ 15 →
    s.pending = .reset (some a) b :: rest → (∀ k < 4, s.resultAt k = .ok) →
    ∃ t, step s = .next t ∧ (∀ r : Fin 8, t.rows.read r.val = 0x00) ∧ t.on = true ∧ t.blink = 0 ∧
      t.bright = BitVec.ofNat 4 b ∧ t.devaddr = BitVec.ofNat 7 a ∧ t.life = .ready ∧
      (∀ r : Fin 8, (rowAddr r).toNat = 2 * r.val) ∧
      t.columnOrder = s.columnOrder ∧ t.pending = rest ∧
      t.trace = s.trace ++
        (resetFrames (BitVec.ofNat 4 b)).map (fun f => Event.write (BitVec.ofNat 7 a) f .ok) ++
        [.response .ok]

/-- 70_reset_and_hazards.md R282: when write W(k+1) is the first to fail, the reset makes no further
write and ends with `LIFE = FAILED` and TRANSPORT_FAILURE; the trace holds the frames up to and including
the failed one; every command is then refused. -/
def Obligations.FailedResetStopsAtFailingWrite : Prop :=
  ∀ (s : State) (a b k : Nat) (rest : List HostAction), a ≤ 0x7F → b ≤ 15 → k < 4 →
    s.pending = .reset (some a) b :: rest → (∀ j < k, s.resultAt j = .ok) → s.resultAt k = .fail →
    ∃ t, step s = .next t ∧ t.life = .failed ∧ t.devaddr = BitVec.ofNat 7 a ∧ t.pending = rest ∧
      t.trace = s.trace ++
        ((resetFrames (BitVec.ofNat 4 b)).take k).map
          (fun f => Event.write (BitVec.ofNat 7 a) f .ok) ++
        ((resetFrames (BitVec.ofNat 4 b))[k]?.toList).map
          (fun f => Event.write (BitVec.ofNat 7 a) f .fail) ++
        [.response .transportFailure] ∧
      ∀ i, exec i t = .refused (.notReady .failed)

/-- 70_reset_and_hazards.md R281: a reset that presents no address takes the default `0x70`; a reset that
succeeds takes its brightness from its own parameter, not from `BRIGHT`; and no command changes `DEVADDR`.
That the state after a FAILED reset does not depend on the old `BRIGHT` either is the model's choice and
no rule: 10_state.md R38 leaves `BRIGHT` unspecified there, and the model's free values are applied to the
draw number (log entry 5). -/
def Obligations.ResetParametersAreSampledAtReset : Prop :=
  (∀ (s : State) (b : Nat) (rest : List HostAction), s.pending = .reset none b :: rest →
    step s = step { s with pending := .reset (some 0x70) b :: rest }) ∧
  (∀ (s t : State) (v : BitVec 4) (a : Option Nat) (b : Nat) (rest : List HostAction),
    s.pending = .reset a b :: rest → step s = .next t → step { s with bright := v } = .next t) ∧
  (∀ (s t : State) (i : Instr), exec i s = .next t → t.devaddr = s.devaddr)

/-- 60_exceptions.md R253: overlapping transactions, and resets with a parameter outside its range, are
refused, each under its own name while the other parameter is legal. -/
def Obligations.HostDutyViolationsAreRefused : Prop :=
  ∀ (s : State) (rest : List HostAction),
    (s.pending = .overlap :: rest → step s = .refused .overlappingTransaction) ∧
    (∀ (a : Option Nat) (b : Nat), s.pending = .reset a b :: rest → 15 < b →
      (∃ r, step s = .refused r) ∧
      (a.getD 0x70 ≤ 0x7F → step s = .refused (.resetBrightness b))) ∧
    (∀ a b : Nat, s.pending = .reset (some a) b :: rest → 0x7F < a →
      (∃ r, step s = .refused r) ∧
      (b ≤ 15 → step s = .refused (.resetAddress a)))

/-- 10_state.md R36: at power-up `LIFE = UNRESET`, and no command has a meaning. -/
def Obligations.PowerUpRefusesCommands : Prop :=
  State.powerUp.life = .unreset ∧
  ∀ (w : CommandWord) (b : Bitmap),
    step { State.powerUp with pending := [.command w b] } = .refused (.notReady .unreset)

/-- 60_exceptions.md R252: a command presented while `LIFE` is not READY is refused, whatever its word
is, and the refusal mark is set for the run. -/
def Obligations.CommandsOutsideReadyAreRefused : Prop :=
  ∀ (s : State) (w : CommandWord) (b : Bitmap) (rest : List HostAction),
    s.pending = .command w b :: rest → s.life ≠ .ready →
    step s = .refused (.notReady s.life) ∧ (∀ i, exec i s = .refused (.notReady s.life)) ∧
    ∀ fs m, (RunRecord.advance ⟨s, fs, m⟩).refused = true

/-- 60_exceptions.md R251 and 10_state.md R27: only a reset leaves UNRESET, FAILED or FAULTED, and a
recorded fault and a refusal mark stay for the run. -/
def Obligations.OnlyResetLeavesNotReady : Prop :=
  (∀ s t : State, step s = .next t → s.life ≠ .ready → t.life ≠ s.life →
    ∃ a b rest, s.pending = .reset a b :: rest) ∧
  (∀ (s : State) (w : CommandWord) (b : Bitmap) (rest : List HostAction), s.life = .faulted →
    s.pending = .command w b :: rest → step s = .refused (.notReady .faulted)) ∧
  (∀ (n : Nat) (r : RunRecord), r.faults <+: (RunRecord.run n r).faults ∧
    (r.refused = true → (RunRecord.run n r).refused = true))

/-! ### The command cycle -/

/-- 43_controller_commands.md R170: when the presented word decodes, the step is `exec` of the decoded
instruction at the state with the transaction taken from the port. -/
def Obligations.StepRunsDecodedInstruction : Prop :=
  ∀ (s : State) (w : CommandWord) (b : Bitmap) (rest : List HostAction) (i : Instr),
    s.pending = .command w b :: rest → decode w b = .ok i →
    step s = exec i { s with pending := rest }

/-- 00_scope.md R9: with nothing presented the block does nothing (the model's choice of what a step is
then, log entry 8). -/
def Obligations.StepWithoutTransactionIsIdle : Prop :=
  ∀ s : State, s.pending = [] → step s = .next s

/-- 60_exceptions.md R255: of the outcomes that apply to a command word exactly one is reported, in this
order: NotReady, ILLEGAL_COMMAND, COORDINATE_UNDEFINED, INVALID_ARGUMENT, and else one response: OK for
`set_blinking` while off, which has no `Emit`, or after one write the status of its Transport result. -/
def Obligations.OutcomesFollowThePriority : Prop :=
  ∀ (s : State) (w : CommandWord) (b : Bitmap),
    if s.life ≠ .ready then presentCommand w b s = .refused (.notReady s.life)
    else
      match decode w b with
      | .error _ => presentCommand w b s = onlyStatus .illegalCommand s
      | .ok i =>
        if i.notReserved = false then presentCommand w b s = onlyStatus .illegalCommand s
        else if i.coordinatesLegal = false then FaultsWith w s (presentCommand w b s)
        else if i.valueLegal = false then presentCommand w b s = onlyStatus .invalidArgument s
        else ∃ t, presentCommand w b s = .next t ∧
          ((∃ m, i = .setBlinking m) ∧ s.on = false → t.trace = s.trace ++ [.response .ok]) ∧
          (¬((∃ m, i = .setBlinking m) ∧ s.on = false) →
            ∃ frame, t.trace = s.trace ++
              [.write s.devaddr frame (s.resultAt 0), .response (statusFor (s.resultAt 0))])

/-- 60_exceptions.md R241: OK is returned exactly when the command passed every check and its `Emit`
returned `ok`, or it had no `Emit` (only `set_blinking` while off has none). -/
def Obligations.OkExactlyWhenPassedAndDelivered : Prop :=
  ∀ (i : Instr) (s t : State), exec i s = .next t →
    (t.trace.getLast? = some (.response .ok) ↔
      i.WellFormed ∧ (s.resultAt 0 = .ok ∨ (∃ m, i = .setBlinking m) ∧ s.on = false))

/-- 43_controller_commands.md R170, R241: in READY every instruction whose operands are legal completes,
and its response is OK or TRANSPORT_FAILURE. -/
def Obligations.LegalCommandsComplete : Prop :=
  ∀ (i : Instr) (s : State), s.life = .ready → i.WellFormed →
    ∃ t, exec i s = .next t ∧ t.life = .ready ∧
      (t.trace.getLast? = some (.response .ok) ∨
        t.trace.getLast? = some (.response .transportFailure))

/-- 60_exceptions.md R250, 30_encoding.md R77: in READY an instruction faults exactly when one of its
coordinates is 8 or more, and the fault is COORDINATE_UNDEFINED with the command word recorded. -/
def Obligations.FaultExactlyOnBadCoordinate : Prop :=
  ∀ (i : Instr) (s : State), s.life = .ready →
    ((∃ f, exec i s = .fault f) ↔ i.coordinatesLegal = false) ∧
    (i.coordinatesLegal = false → FaultsWith (encode i) s (exec i s))

/-- 43_controller_commands.md R171: a command's state writes are kept whatever its `Emit` returns: after a
failed write the registers hold what they hold after an `ok` one, and only the chip, the trace and the
environment differ. -/
def Obligations.StateWritesSurviveTransportFailure : Prop :=
  ∀ (i : Instr) (s t : State) (rs : List TransportResult),
    exec i { s with results := .ok :: rs } = .next t →
    ∃ u, exec i { s with results := .fail :: rs } = .next u ∧ u.rows = t.rows ∧ u.on = t.on ∧
      u.blink = t.blink ∧ u.bright = t.bright ∧ u.devaddr = t.devaddr ∧ u.life = t.life ∧
      u.columnOrder = t.columnOrder

/-- 43_controller_commands.md R173: a command performs at most one `Emit` and gives one response; it
performs none exactly when a check rejects it or it is `set_blinking` while `ON = 0`. -/
def Obligations.AtMostOneFramePerCommand : Prop :=
  ∀ (i : Instr) (s t : State), exec i s = .next t →
    ∃ ws st, t.trace = s.trace ++ ws ++ [.response st] ∧
      (ws = [] ∨ ∃ f res, ws = [.write s.devaddr f res]) ∧
      (ws = [] ↔ ¬i.WellFormed ∨ (∃ m, i = .setBlinking m) ∧ s.on = false)

/-- 43_controller_commands.md R174: no command writes `DEVADDR`, none writes `LIFE` but by the fault, and
the control commands neither read nor write `ROWS`. -/
def Obligations.CommandsKeepIdentityAndControlKeepsRows : Prop :=
  (∀ (i : Instr) (s t : State), exec i s = .next t → KeepsIdentity s t) ∧
  (∀ (i : Instr) (s t : State) (m : Memory),
    (i = .on ∨ i = .off ∨ (∃ v, i = .setBrightness v) ∨ ∃ v, i = .setBlinking v) →
    exec i s = .next t → t.rows = s.rows ∧ exec i { s with rows := m } = .next { t with rows := m })

/-- 44_buffer_commands.md R201: a buffer command neither reads nor writes `ON`, `BLINK` or `BRIGHT`, and
emits its frame whatever `ON` is. -/
def Obligations.BufferCommandsIgnoreControl : Prop :=
  ∀ (i : Instr) (s t : State) (b : Bool) (m : BitVec 2) (v : BitVec 4),
    (i.notReserved = true ∧ i ≠ .on ∧ i ≠ .off ∧ (∀ x, i ≠ .setBrightness x) ∧
      ∀ x, i ≠ .setBlinking x) →
    exec i s = .next t → KeepsControl s t ∧
      exec i { s with on := b, blink := m, bright := v } =
        .next { t with on := b, blink := m, bright := v }

/-! ### The encoding -/

/-- 95_test_vectors.md L2.4: words written out from the encoding table decode as the table says. -/
def Obligations.SampleWordsDecode : Prop :=
  decode 0x1000 0 = .ok .on ∧ decode 0x2000 0 = .ok .off ∧
  decode 0x3010 0 = .ok (.setBrightness 16) ∧ decode 0x4003 0 = .ok (.setBlinking 3) ∧
  decode 0x5000 0x10307FFF7F301000 = .ok (.set 0x10307FFF7F301000) ∧ decode 0x6000 0 = .ok .clear ∧
  decode 0x7512 0 = .ok (.setRow 5 0x12) ∧ decode 0x8700 0 = .ok (.clearRow 7) ∧
  decode 0x9706 0 = .ok (.setPixel 7 6) ∧ decode 0xA307 0 = .ok (.clearPixel 3 7) ∧
  decode 0xB3A5 0 = .ok (.setColumn 3 0xA5) ∧ decode 0xC200 0 = .ok (.clearColumn 2) ∧
  decode 0xE123 0 = .ok (.reservedOpE 1 0x23) ∧ decode 0x8801 0 = .error (.mustBeZero 0x8801)

/-- 30_encoding.md R73, R83: decoding the encoded word of any instruction gives the instruction back, with
every operand at every value its field holds. -/
def Obligations.DecodeOfEncode : Prop :=
  ∀ i : Instr, decode (encode i) (encodeBitmap i) = .ok i

/-- 30_encoding.md R73, R74: every word the decoder accepts is the word of the instruction it answers, so
no two words decode alike. -/
def Obligations.EncodeOfDecode : Prop :=
  ∀ (w : CommandWord) (b : Bitmap) (i : Instr), decode w b = .ok i → encode i = w

/-- 30_encoding.md R73: a word decodes to an instruction of a row exactly when `(CMD & mask) = match` of
that row; a word that matches no row is a must-be-zero violation. -/
def Obligations.DecoderAgreesWithOpcodeMap : Prop :=
  ∀ (w : CommandWord) (b : Bitmap),
    (∀ i, decode w b = .ok i → w &&& i.mask = i.pattern ∧ (i.pattern, i.mask) ∈ opcodeRows) ∧
    (∀ row ∈ opcodeRows, w &&& row.2 = row.1 →
      ∃ i, decode w b = .ok i ∧ i.pattern = row.1 ∧ i.mask = row.2) ∧
    (decode w b = .error (.mustBeZero w) ↔ ∀ row ∈ opcodeRows, w &&& row.2 ≠ row.1)

/-- 30_encoding.md R76: a word whose selector is 0x1 to 0xC and whose must-be-zero field is not zero
completes with ILLEGAL_COMMAND, no state change and no Transport write. -/
def Obligations.MustBeZeroViolationIsIllegal : Prop :=
  ∀ (s : State) (op a : BitVec 4) (d : BitVec 8) (b : Bitmap) (rest : List HostAction),
    s.life = .ready → s.pending = .command (op ++ a ++ d) b :: rest →
    ((op = 0x1 ∨ op = 0x2 ∨ op = 0x5 ∨ op = 0x6) ∧ (a ≠ 0 ∨ d ≠ 0) ∨
      (op = 0x3 ∨ op = 0x4) ∧ a ≠ 0 ∨ (op = 0x8 ∨ op = 0xC) ∧ d ≠ 0) →
    step s = onlyStatus .illegalCommand { s with pending := rest }

/-- 30_encoding.md R75: a reserved word completes with ILLEGAL_COMMAND, no state change and no Transport
write, whatever its other bits are. -/
def Obligations.ReservedSelectorsAreIllegal : Prop :=
  ∀ s : State, s.life = .ready →
    (∀ a d, exec (.reservedOp0 a d) s = onlyStatus .illegalCommand s ∧
      exec (.reservedOpD a d) s = onlyStatus .illegalCommand s ∧
      exec (.reservedOpE a d) s = onlyStatus .illegalCommand s ∧
      exec (.reservedOpF a d) s = onlyStatus .illegalCommand s) ∧
    (∀ (op a : BitVec 4) (d : BitVec 8) (b : Bitmap) (rest : List HostAction),
      s.pending = .command (op ++ a ++ d) b :: rest → op = 0x0 ∨ op = 0xD ∨ op = 0xE ∨ op = 0xF →
      step s = onlyStatus .illegalCommand { s with pending := rest })

/-- 30_encoding.md R71: every command but `set` ignores `BMP`. -/
def Obligations.BitmapOnlyMattersToSet : Prop :=
  ∀ (w : CommandWord) (b b' : Bitmap),
    decode w b = decode w b' ∨ w = 0x5000 ∧ decode w b = .ok (.set b)

/-! ### The control commands -/

/-- 43_controller_commands.md R180: `on` writes `ON` and nothing else and emits the power frame of the
current blink mode; with a non-zero A or D it is ILLEGAL_COMMAND. -/
def Obligations.OnSetsPowerAndEmits : Prop :=
  ∀ s : State, s.life = .ready →
    (∃ t, exec .on s = .next t ∧ t.on = true ∧ t.blink = s.blink ∧ t.bright = s.bright ∧
      t.rows = s.rows ∧ KeepsIdentity s t ∧ Reports s t [0x81#8 ||| (s.blink.setWidth 8 <<< 1)]) ∧
    encode .on = 0x1000 ∧
    (∀ a d b, a ≠ 0 ∨ d ≠ 0 →
      presentCommand (assembled 0x1000 a d) b s = onlyStatus .illegalCommand s)

/-- 43_controller_commands.md R182: `off` writes `ON` and nothing else and emits the fixed off byte; with
a non-zero A or D it is ILLEGAL_COMMAND. -/
def Obligations.OffClearsPowerAndEmits : Prop :=
  ∀ s : State, s.life = .ready →
    (∃ t, exec .off s = .next t ∧ t.on = false ∧ t.blink = s.blink ∧ t.bright = s.bright ∧
      t.rows = s.rows ∧ KeepsIdentity s t ∧ Reports s t [0x80]) ∧
    encode .off = 0x2000 ∧
    (∀ a d b, a ≠ 0 ∨ d ≠ 0 →
      presentCommand (assembled 0x2000 a d) b s = onlyStatus .illegalCommand s)

/-- 43_controller_commands.md R184: `set_brightness v` writes `BRIGHT` and emits `[0xE0 | v]` when
v ≤ 15, is INVALID_ARGUMENT with no effect when v > 15, and ILLEGAL_COMMAND when A is not zero. -/
def Obligations.SetBrightnessResult : Prop :=
  ∀ (s : State) (v : BitVec 8), s.life = .ready →
    (v.toNat ≤ 15 → ∃ t, exec (.setBrightness v) s = .next t ∧ t.bright.toNat = v.toNat ∧
      t.on = s.on ∧ t.blink = s.blink ∧ t.rows = s.rows ∧ KeepsIdentity s t ∧
      Reports s t [0xE0 ||| v]) ∧
    (15 < v.toNat → exec (.setBrightness v) s = onlyStatus .invalidArgument s) ∧
    encode (.setBrightness v) = 0x3000 ||| v.setWidth 16 ∧
    (∀ a b, a ≠ 0 → presentCommand (assembled 0x3000 a v) b s = onlyStatus .illegalCommand s)

/-- 43_controller_commands.md R186: `set_blinking m` writes `BLINK` when m ≤ 3; it emits the power frame
while `ON = 1` and nothing while `ON = 0`; it is INVALID_ARGUMENT with no effect when m > 3, and
ILLEGAL_COMMAND when A is not zero. -/
def Obligations.SetBlinkingResult : Prop :=
  ∀ (s : State) (m : BitVec 8), s.life = .ready →
    (m.toNat ≤ 3 → ∃ t, exec (.setBlinking m) s = .next t ∧ t.blink.toNat = m.toNat ∧
      t.on = s.on ∧ t.bright = s.bright ∧ t.rows = s.rows ∧ KeepsIdentity s t ∧
      (s.on = true → Reports s t [0x81#8 ||| (m <<< 1)]) ∧
      (s.on = false → t.trace = s.trace ++ [.response .ok] ∧ t.results = s.results ∧
        t.draws = s.draws ∧ t.chip = s.chip)) ∧
    (3 < m.toNat → exec (.setBlinking m) s = onlyStatus .invalidArgument s) ∧
    encode (.setBlinking m) = 0x4000 ||| m.setWidth 16 ∧
    (∀ a b, a ≠ 0 → presentCommand (assembled 0x4000 a m) b s = onlyStatus .illegalCommand s)

/-- 43_controller_commands.md R187 (b), 70_reset_and_hazards.md R292: a blink mode set while off reaches
the wire with the next `on`, which emits `0x81 | (m << 1)`; between them no frame is emitted. -/
def Obligations.LatchedBlinkIsShownByOn : Prop :=
  ∀ (s : State) (m : BitVec 8), s.life = .ready → s.on = false → m.toNat ≤ 3 →
    ∃ t u, exec (.setBlinking m) s = .next t ∧ exec .on t = .next u ∧ u.on = true ∧
      u.blink.toNat = m.toNat ∧
      u.trace = s.trace ++ [.response .ok,
        .write s.devaddr [0x81#8 ||| (m <<< 1)] (s.resultAt 0),
        .response (statusFor (s.resultAt 0))]

/-- 43_controller_commands.md R181, R183, 10_state.md R35: `off` then `on` preserves every row, the blink
mode and the brightness, and puts just the two power frames on the wire. -/
def Obligations.OffThenOnPreservesEverything : Prop :=
  ∀ s : State, s.life = .ready →
    ∃ t u, exec .off s = .next t ∧ exec .on t = .next u ∧ u.rows = s.rows ∧ u.blink = s.blink ∧
      u.bright = s.bright ∧ u.on = true ∧ KeepsIdentity s u ∧
      u.trace = s.trace ++ [.write s.devaddr [0x80] (s.resultAt 0),
        .response (statusFor (s.resultAt 0)),
        .write s.devaddr [0x81#8 ||| (s.blink.setWidth 8 <<< 1)] (s.resultAt 1),
        .response (statusFor (s.resultAt 1))]

/-! ### The buffer commands -/

/-- 44_buffer_commands.md R202: `set` replaces every row by its byte of `BMP` and emits the full frame;
with a non-zero A or D it is ILLEGAL_COMMAND. -/
def Obligations.SetReplacesEveryRow : Prop :=
  ∀ (s : State) (bmp : Bitmap), s.life = .ready →
    (∃ t, exec (.set bmp) s = .next t ∧
      (∀ i : Fin 8, t.rows.read i.val = bmp.extractLsb' (56 - 8 * i.val) 8) ∧
      (∀ a, 8 ≤ a → t.rows.read a = s.rows.read a) ∧ KeepsControl s t ∧ KeepsIdentity s t ∧
      Reports s t (fullFrameOf fun i => bmp.extractLsb' (56 - 8 * i.val) 8)) ∧
    encode (.set bmp) = 0x5000 ∧
    (∀ a d b, a ≠ 0 ∨ d ≠ 0 →
      presentCommand (assembled 0x5000 a d) b s = onlyStatus .illegalCommand s)

/-- 44_buffer_commands.md R204: `clear` zeroes every row and emits sixteen zero bytes; with a non-zero A
or D it is ILLEGAL_COMMAND. -/
def Obligations.ClearZeroesEveryRow : Prop :=
  ∀ s : State, s.life = .ready →
    (∃ t, exec .clear s = .next t ∧ (∀ i : Fin 8, t.rows.read i.val = 0x00) ∧
      (∀ a, 8 ≤ a → t.rows.read a = s.rows.read a) ∧ KeepsControl s t ∧ KeepsIdentity s t ∧
      Reports s t (List.replicate 16 0x00)) ∧
    encode .clear = 0x6000 ∧
    (∀ a d b, a ≠ 0 ∨ d ≠ 0 →
      presentCommand (assembled 0x6000 a d) b s = onlyStatus .illegalCommand s)

/-- 44_buffer_commands.md R206: `set_row r, v` writes row r only and emits `[2r, reverse_bits(v)]`; a row
of 8 or more is the fault. -/
def Obligations.SetRowResult : Prop :=
  ∀ (s : State) (r : BitVec 4) (v : BitVec 8), s.life = .ready →
    (r.toNat < 8 → ∃ t, exec (.setRow r v) s = .next t ∧ t.rows.read r.toNat = v ∧
      (∀ a, a ≠ r.toNat → t.rows.read a = s.rows.read a) ∧ KeepsControl s t ∧ KeepsIdentity s t ∧
      Reports s t [BitVec.ofNat 8 (2 * r.toNat), reverseBits v]) ∧
    (8 ≤ r.toNat → FaultsWith (assembled 0x7000 r v) s (exec (.setRow r v) s)) ∧
    encode (.setRow r v) = assembled 0x7000 r v

/-- 44_buffer_commands.md R208: `clear_row r` zeroes row r only and emits `[2r, 0x00]`; a row of 8 or more
is the fault, and a non-zero D is ILLEGAL_COMMAND. -/
def Obligations.ClearRowResult : Prop :=
  ∀ (s : State) (r : BitVec 4), s.life = .ready →
    (r.toNat < 8 → ∃ t, exec (.clearRow r) s = .next t ∧ t.rows.read r.toNat = 0x00 ∧
      (∀ a, a ≠ r.toNat → t.rows.read a = s.rows.read a) ∧ KeepsControl s t ∧ KeepsIdentity s t ∧
      Reports s t [BitVec.ofNat 8 (2 * r.toNat), 0x00]) ∧
    (8 ≤ r.toNat → FaultsWith (assembled 0x8000 r 0) s (exec (.clearRow r) s)) ∧
    encode (.clearRow r) = assembled 0x8000 r 0 ∧
    (∀ d b, d ≠ 0 → presentCommand (assembled 0x8000 r d) b s = onlyStatus .illegalCommand s)

/-- 44_buffer_commands.md R210: `set_pixel r, c` turns bit 7-c of row r on, changes no other bit, and
emits the row frame; a coordinate of 8 or more is the fault. -/
def Obligations.SetPixelResult : Prop :=
  ∀ (s : State) (r : BitVec 4) (c : BitVec 8), s.life = .ready →
    (r.toNat < 8 → c.toNat < 8 → ∃ t, exec (.setPixel r c) s = .next t ∧
      (∀ k < 8, (t.rows.read r.toNat).getLsbD k =
        (decide (k = 7 - c.toNat) || (s.rows.read r.toNat).getLsbD k)) ∧
      (∀ a, a ≠ r.toNat → t.rows.read a = s.rows.read a) ∧ KeepsControl s t ∧ KeepsIdentity s t ∧
      Reports s t [BitVec.ofNat 8 (2 * r.toNat), reverseBits (t.rows.read r.toNat)]) ∧
    (8 ≤ r.toNat ∨ 8 ≤ c.toNat → FaultsWith (assembled 0x9000 r c) s (exec (.setPixel r c) s)) ∧
    encode (.setPixel r c) = assembled 0x9000 r c

/-- 44_buffer_commands.md R212: `clear_pixel r, c` turns bit 7-c of row r off, changes no other bit, and
emits the row frame; a coordinate of 8 or more is the fault. -/
def Obligations.ClearPixelResult : Prop :=
  ∀ (s : State) (r : BitVec 4) (c : BitVec 8), s.life = .ready →
    (r.toNat < 8 → c.toNat < 8 → ∃ t, exec (.clearPixel r c) s = .next t ∧
      (∀ k < 8, (t.rows.read r.toNat).getLsbD k =
        (decide (k ≠ 7 - c.toNat) && (s.rows.read r.toNat).getLsbD k)) ∧
      (∀ a, a ≠ r.toNat → t.rows.read a = s.rows.read a) ∧ KeepsControl s t ∧ KeepsIdentity s t ∧
      Reports s t [BitVec.ofNat 8 (2 * r.toNat), reverseBits (t.rows.read r.toNat)]) ∧
    (8 ≤ r.toNat ∨ 8 ≤ c.toNat →
      FaultsWith (assembled 0xA000 r c) s (exec (.clearPixel r c) s)) ∧
    encode (.clearPixel r c) = assembled 0xA000 r c

/-- 44_buffer_commands.md R214, 40_bit_transform.md R105: `set_column c, v` gives bit 7-c of row r the bit
`v[7-r]` under `msb_top` and `v[r]` under `lsb_top`, changes no other bit, and emits one full frame; a
column of 8 or more is the fault. -/
def Obligations.SetColumnResult : Prop :=
  ∀ (s : State) (c : BitVec 4) (v : BitVec 8), s.life = .ready →
    (c.toNat < 8 → ∃ t, exec (.setColumn c v) s = .next t ∧
      (∀ r : Fin 8, ∀ k < 8, (t.rows.read r.val).getLsbD k =
        if k = 7 - c.toNat then
          (match s.columnOrder with
            | .msbTop => v.getLsbD (7 - r.val)
            | .lsbTop => v.getLsbD r.val)
        else (s.rows.read r.val).getLsbD k) ∧
      (∀ a, 8 ≤ a → t.rows.read a = s.rows.read a) ∧ KeepsControl s t ∧ KeepsIdentity s t ∧
      Reports s t (fullFrameOf fun r => t.rows.read r.val)) ∧
    (8 ≤ c.toNat → FaultsWith (assembled 0xB000 c v) s (exec (.setColumn c v) s)) ∧
    encode (.setColumn c v) = assembled 0xB000 c v

/-- 44_buffer_commands.md R216: `clear_column c` clears bit 7-c of every row, changes no other bit, and
emits one full frame; a column of 8 or more is the fault, and a non-zero D is ILLEGAL_COMMAND. -/
def Obligations.ClearColumnResult : Prop :=
  ∀ (s : State) (c : BitVec 4), s.life = .ready →
    (c.toNat < 8 → ∃ t, exec (.clearColumn c) s = .next t ∧
      (∀ r : Fin 8, ∀ k < 8, (t.rows.read r.val).getLsbD k =
        (decide (k ≠ 7 - c.toNat) && (s.rows.read r.val).getLsbD k)) ∧
      (∀ a, 8 ≤ a → t.rows.read a = s.rows.read a) ∧ KeepsControl s t ∧ KeepsIdentity s t ∧
      Reports s t (fullFrameOf fun r => t.rows.read r.val)) ∧
    (8 ≤ c.toNat → FaultsWith (assembled 0xC000 c 0) s (exec (.clearColumn c) s)) ∧
    encode (.clearColumn c) = assembled 0xC000 c 0 ∧
    (∀ d b, d ≠ 0 → presentCommand (assembled 0xC000 c d) b s = onlyStatus .illegalCommand s)

/-- 44_buffer_commands.md R203 (b), R207 (a), R215 (b): an all-zero bitmap, row pattern or column pattern
acts exactly as `clear`, `clear_row` or `clear_column`. -/
def Obligations.ZeroPatternsActAsClears : Prop :=
  ∀ s : State, exec (.set 0) s = exec .clear s ∧
    (∀ r : BitVec 4, r.toNat < 8 → exec (.setRow r 0) s = exec (.clearRow r) s) ∧
    (∀ c : BitVec 4, c.toNat < 8 → exec (.setColumn c 0) s = exec (.clearColumn c) s)

/-- 44_buffer_commands.md R213 (b): `set_pixel r, c` then `clear_pixel r, c` restores the row exactly when
the pixel was off before, and leaves every other row alone. -/
def Obligations.SetThenClearPixelRestoresIffOff : Prop :=
  ∀ (s : State) (r : BitVec 4) (c : BitVec 8), s.life = .ready → r.toNat < 8 → c.toNat < 8 →
    ∃ t u, exec (.setPixel r c) s = .next t ∧ exec (.clearPixel r c) t = .next u ∧
      (u.rows.read r.toNat = s.rows.read r.toNat ↔
        (s.rows.read r.toNat).getLsbD (7 - c.toNat) = false) ∧
      (∀ a, a ≠ r.toNat → u.rows.read a = s.rows.read a)

/-- 44_buffer_commands.md R217 (b): `set_column c, 0xFF` sets the column's bit in every row and
`clear_column c` after it clears it again; every other bit is as before the pair. -/
def Obligations.SetAllThenClearColumn : Prop :=
  ∀ (s : State) (c : BitVec 4), s.life = .ready → c.toNat < 8 →
    ∃ t u, exec (.setColumn c 0xFF) s = .next t ∧ exec (.clearColumn c) t = .next u ∧
      ∀ r : Fin 8, (t.rows.read r.val).getLsbD (7 - c.toNat) = true ∧
        ∀ k < 8, (u.rows.read r.val).getLsbD k =
          (decide (k ≠ 7 - c.toNat) && (s.rows.read r.val).getLsbD k)

/-- 40_bit_transform.md R100, R102: bit k of the reversed byte is bit 7-k of the byte, for every byte; so
the reversal of a row byte has pixel (r, c) at bit c. R101: it is an involution. That it is then a
bijection, keeps the number of set bits and distributes over the bitwise operators is the spec's own
inference from R100, marked so in R101, as is R102. -/
def Obligations.ReverseBitsLaws : Prop :=
  (∀ x, ∀ k < 8, (reverseBits x).getLsbD k = x.getLsbD (7 - k)) ∧
  (∀ x, reverseBits (reverseBits x) = x) ∧ Function.Bijective reverseBits ∧
  (∀ x, (List.range 8).countP (fun k => (reverseBits x).getLsbD k) =
    (List.range 8).countP (fun k => x.getLsbD k)) ∧
  (∀ x y, reverseBits (x ||| y) = reverseBits x ||| reverseBits y ∧
    reverseBits (x &&& y) = reverseBits x &&& reverseBits y ∧
    reverseBits (x ^^^ y) = reverseBits x ^^^ reverseBits y) ∧
  (∀ x, reverseBits (~~~x) = ~~~reverseBits x)

/-! ### Whole-machine rules -/

/-- 30_encoding.md R80, 42_protocol_encoder.md R151: every write a step makes goes to `DEVADDR` and is one
of the six frames: oscillator, power on, power off, brightness, row, full buffer. -/
def Obligations.EveryWriteIsAFrameToTheDevice : Prop :=
  ∀ s t : State, step s = .next t → ∃ es, t.trace = s.trace ++ es ∧
    ∀ a bytes res, Event.write a bytes res ∈ es → a = t.devaddr ∧
      (bytes = [0x21] ∨ (∃ m : BitVec 2, bytes = [0x81#8 ||| (m.setWidth 8 <<< 1)]) ∨
        bytes = [0x80] ∨ (∃ v : BitVec 4, bytes = [0xE0 ||| v.setWidth 8]) ∨
        (∃ (r : Fin 8) (x : Byte), bytes = [BitVec.ofNat 8 (2 * r.val), reverseBits x]) ∨
        ∃ row : Fin 8 → Byte, bytes = fullFrameOf row)

/-- The framebuffer and the display RAM keep their canonical form over every step, and over a fault (the
model's form of memory, log entry 10). -/
def Obligations.StepKeepsCanonicalMemory : Prop :=
  ∀ s : State, s.Canonical →
    (∀ t, step s = .next t → t.Canonical) ∧
    (∀ w t, step s = .fault (.coordinateUndefined w t) → t.Canonical)

/-- The reset state and the power-up state are canonical. -/
def Obligations.ResetIsCanonical : Prop := State.reset.Canonical ∧ State.powerUp.Canonical

/-- 20_memory.md R65 (a) to (c): every step keeps the shadow relation between the registers and the last
frames of the trace, whatever the Transport returns. -/
def Obligations.StepKeepsShadowOfTrace : Prop :=
  ∀ s t : State, s.ShadowsTrace → step s = .next t → t.ShadowsTrace

/-- 20_memory.md R65: the shadow relation holds right after reset. -/
def Obligations.ResetShadowsTrace : Prop := State.reset.ShadowsTrace

/-- 20_memory.md R65 with the reference reading R268 to R271: every step keeps the chip's agreement with
the registers wherever the last frame that carried them returned `ok`. -/
def Obligations.StepKeepsChipAgreement : Prop :=
  ∀ s t : State, s.ChipAgrees → step s = .next t → t.ChipAgrees

/-- The chip agrees, and its oscillator runs, right after reset. -/
def Obligations.ResetChipAgrees : Prop := State.reset.ChipAgrees ∧ State.reset.OscillatorOn

/-- 60_exceptions.md R268, 70_reset_and_hazards.md R285: no step leaves the block READY with the
oscillator of its chip off. -/
def Obligations.StepKeepsOscillatorOn : Prop :=
  ∀ s t : State, s.OscillatorOn → step s = .next t → t.OscillatorOn

/-- 20_memory.md R64: a whole-buffer or column command whose write returns `ok` resynchronises every row
of the chip, whatever the chip held before. -/
def Obligations.FullFrameResynchronisesTheChip : Prop :=
  ∀ (i : Instr) (s t : State),
    ((∃ b, i = .set b) ∨ i = .clear ∨ (∃ c v, i = .setColumn c v) ∨ ∃ c, i = .clearColumn c) →
    exec i s = .next t → s.resultAt 0 = .ok → s.chip.addr = s.devaddr →
    ∀ r : Fin 8, cellAt t.chip.ram (2 * r.val) = some (reverseBits (t.rows.read r.val))

/-- 60_exceptions.md R272, by the reference reading: after a `set_pixel r, c` whose write returned `ok`,
pixel (r, c) is lit if the chip's oscillator and display are on; after a `clear_pixel` it is not. -/
def Obligations.PixelCommandsLightTheDisplay : Prop :=
  ∀ (s : State) (r : BitVec 4) (c : BitVec 8) (hr : r.toNat < 8) (hc : c.toNat < 8),
    s.life = .ready → s.resultAt 0 = .ok → s.chip.addr = s.devaddr → s.chip.osc = true →
    s.chip.displayOn = true →
    (∃ t, exec (.setPixel r c) s = .next t ∧ t.chip.lit ⟨r.toNat, hr⟩ ⟨c.toNat, hc⟩ = some true) ∧
    (∃ t, exec (.clearPixel r c) s = .next t ∧
      t.chip.lit ⟨r.toNat, hr⟩ ⟨c.toNat, hc⟩ = some false)

/-- 20_memory.md R51, 40_bit_transform.md R102 (inferences the spec marks as its own): in READY a buffer
command with legal coordinates completes with one write, whose frame covers every row the command changed
and at least one row; and in each row the frame covers, wire bit c of the row byte is pixel (r, c), bit
7-c of `ROWS[r]`. It says so at the block's port, without the chip's reading. -/
def Obligations.WireBitsCarryPixels : Prop :=
  ∀ (i : Instr) (s : State), s.life = .ready → i.WellFormed →
    (i ≠ .on ∧ i ≠ .off ∧ (∀ x, i ≠ .setBrightness x) ∧ ∀ x, i ≠ .setBlinking x) →
    ∃ t frame, exec i s = .next t ∧
      t.trace = s.trace ++
        [.write s.devaddr frame (s.resultAt 0), .response (statusFor (s.resultAt 0))] ∧
      (∃ r : Fin 8, coversRow r frame = true) ∧
      (∀ r : Fin 8, t.rows.read r.val ≠ s.rows.read r.val → coversRow r frame = true) ∧
      ∀ r : Fin 8, coversRow r frame = true →
        ∃ wire, rowByteOf r frame = some wire ∧
          ∀ c < 8, wire.getLsbD c = (t.rows.read r.val).getLsbD (7 - c)

/-- 60_exceptions.md R272, R268, by the reference reading: a pixel is not lit before the chip has received
`[0x21]`, nor with its display-on flag 0, whatever its RAM holds; where RAM byte `2r` is known the three
conditions decide; and a lit pixel meets the first two. -/
def Obligations.PixelIsLitByThreeConditions : Prop :=
  ∀ (k : Chip) (r c : Fin 8),
    (k.osc = false ∨ k.displayOn = false → k.lit r c = some false) ∧
    (∀ b, cellAt k.ram (2 * r.val) = some b →
      k.lit r c = some (k.osc && k.displayOn && b.getLsbD c.val)) ∧
    (k.lit r c = some true → k.osc = true ∧ k.displayOn = true)

/-- 60_exceptions.md R268, 70_reset_and_hazards.md R294, by the reference reading: at power-up no pixel is
lit, and a chip that has not received `[0x21]` drives no LED after any step that writes it no `[0x21]`.
That the chip powers up with the block is the model's choice (log entry 13). -/
def Obligations.NothingIsLitBeforeOscillatorFrame : Prop :=
  (∀ r c : Fin 8, State.powerUp.chip.lit r c = some false) ∧
  ∀ s t : State, step s = .next t → s.chip.osc = false →
    (∀ res, Event.write s.chip.addr [0x21] res ∉ t.trace.drop s.trace.length) →
    t.chip.osc = false ∧ ∀ r c : Fin 8, t.chip.lit r c = some false

/-- 60_exceptions.md R268, R272, by the reference reading: no step and no fault makes the chip forget a
received `[0x21]`. That a fault's unspecified writes do not either is the model's choice (log entry 13). -/
def Obligations.ReceivedOscillatorFrameStays : Prop :=
  ∀ s : State, s.chip.osc = true →
    (∀ t, step s = .next t → t.chip.osc = true) ∧
    (∀ w t, step s = .fault (.coordinateUndefined w t) → t.chip.osc = true)

/-- 60_exceptions.md R269, R272, by the reference reading: after an `off` whose write returned `ok` no
pixel is lit, whatever the chip's RAM holds. -/
def Obligations.OffDarkensTheDisplay : Prop :=
  ∀ s : State, s.life = .ready → s.resultAt 0 = .ok → s.chip.addr = s.devaddr →
    ∃ t, exec .off s = .next t ∧ ∀ r c : Fin 8, t.chip.lit r c = some false
end

