-- ==== Sys2Proof/Laws/BitTransform.lean ====
section
/-! SUPPORT. The bits of BitTransform's results (40_bit_transform.md R100 to R105). -/

namespace Sys2Proof.Machine

open Sys2Proof

/-- Bit k of `reverse_bits(x)` is bit 7-k of `x` (R100). -/
theorem getLsbD_reverseBits (x : Byte) (k : Nat) (hk : k < 8) :
    (reverseBits x).getLsbD k = x.getLsbD (7 - k) := by
  interval_cases k <;> simp [reverseBits, List.range, List.range.loop]

/-- A byte is known by its eight bits. -/
theorem byte_ext {x y : Byte} (h : ∀ k < 8, x.getLsbD k = y.getLsbD k) : x = y :=
  BitVec.eq_of_getLsbD_eq (fun k hk => h k hk)

/-- The column mask has exactly bit 7-c set (R103). -/
theorem getLsbD_columnMask (c : Fin 8) (k : Nat) (hk : k < 8) :
    (columnMask c).getLsbD k = decide (k = 7 - c.val) := by
  revert c
  interval_cases k <;> decide

theorem getLsbD_not_columnMask (c : Fin 8) (k : Nat) (hk : k < 8) :
    (~~~columnMask c).getLsbD k = decide (k ≠ 7 - c.val) := by
  rw [BitVec.getLsbD_not, getLsbD_columnMask c k hk]
  simp [hk]

/-- The shifted column bit is at bit 7-to, and carries bit 7-from of the byte (R104). -/
theorem getLsbD_shiftBitBetweenColumns (byte : Byte) (fromCol toCol : Fin 8) (k : Nat) (hk : k < 8) :
    (shiftBitBetweenColumns byte (columnMask fromCol) fromCol toCol).getLsbD k =
      (decide (k = 7 - toCol.val) && byte.getLsbD (7 - fromCol.val)) := by
  simp only [shiftBitBetweenColumns]
  have hf := fromCol.isLt
  have ht := toCol.isLt
  split
  · next h =>
    obtain ⟨n, hn⟩ : ∃ n, ((fromCol.val : Int) - (toCol.val : Int)).toNat = n := ⟨_, rfl⟩
    have hft : fromCol.val = toCol.val + n := by omega
    rw [hn, BitVec.getLsbD_shiftLeft, BitVec.getLsbD_and, getLsbD_columnMask _ _ (by omega), hft]
    by_cases hkt : k = 7 - toCol.val
    · have e : k - n = 7 - (toCol.val + n) := by omega
      rw [e]
      simp [hkt, show ¬(7 - toCol.val < n) by omega, show 7 - toCol.val < 8 by omega]
    · by_cases hd : k < n
      · simp [hd, hkt]
      · simp [hkt, show k - n ≠ 7 - (toCol.val + n) by omega]
  · next h =>
    obtain ⟨n, hn⟩ : ∃ n, (-((fromCol.val : Int) - (toCol.val : Int))).toNat = n := ⟨_, rfl⟩
    have hft : toCol.val = fromCol.val + n := by omega
    rw [hn, BitVec.getLsbD_ushiftRight, BitVec.getLsbD_and, hft]
    by_cases hin : n + k < 8
    · rw [getLsbD_columnMask _ _ hin]
      by_cases hkt : k = 7 - (fromCol.val + n)
      · have e : n + k = 7 - fromCol.val := by omega
        rw [e]
        simp [hkt]
      · simp [hkt, show n + k ≠ 7 - fromCol.val by omega]
    · rw [BitVec.getLsbD_of_ge byte _ (by omega)]
      simp [show k ≠ 7 - (fromCol.val + n) by omega]

/-- Row r's contribution: bit 7-c carries the source column's bit of the byte (R105). -/
theorem getLsbD_colContribution (order : ColumnOrder) (v : Byte) (r c : Fin 8) (k : Nat) (hk : k < 8) :
    (colContribution order v r c).getLsbD k =
      (decide (k = 7 - c.val) && v.getLsbD (7 - (srcCol order r).val)) :=
  getLsbD_shiftBitBetweenColumns v (srcCol order r) c k hk

end Sys2Proof.Machine
end

