-- ==== Sys2Proof/Laws/Memory.lean ====
section
/-! SUPPORT. Laws of memory: read after write, the canonical form is kept, and canonical memories that
read alike are equal. -/

namespace Sys2Proof.Machine

open Sys2Proof

@[simp] theorem cellAt_putCell_same (m : List Host.Cell) (a : Nat) (v : Byte) :
    cellAt (putCell m a v) a = some v := by
  induction m with
  | nil => simp [putCell, cellAt]
  | cons c rest ih =>
    obtain ⟨b, w⟩ := c
    rcases Nat.lt_trichotomy a b with h | h | h
    · simp [putCell, cellAt, h]
    · simp [putCell, cellAt, h]
    · simp [putCell, cellAt, show ¬a < b by omega, show a ≠ b by omega, ih]

theorem cellAt_putCell_other (m : List Host.Cell) {a x : Nat} (v : Byte) (h : x ≠ a) :
    cellAt (putCell m a v) x = cellAt m x := by
  induction m with
  | nil => simp [putCell, cellAt, h]
  | cons c rest ih =>
    obtain ⟨b, w⟩ := c
    unfold putCell
    split
    · simp [cellAt, h]
    · split
      · next e => subst e; simp [cellAt, h]
      · simp [cellAt, ih]

@[simp] theorem cellAt_dropCell_same (m : List Host.Cell) (a : Nat) :
    cellAt (dropCell m a) a = none := by
  induction m with
  | nil => rfl
  | cons c rest ih =>
    obtain ⟨b, w⟩ := c
    by_cases h : b = a
    · simpa [dropCell, h] using ih
    · have h' : a ≠ b := fun e => h e.symm
      simpa [dropCell, h, cellAt, h'] using ih

theorem cellAt_dropCell_other (m : List Host.Cell) {a x : Nat} (h : x ≠ a) :
    cellAt (dropCell m a) x = cellAt m x := by
  induction m with
  | nil => rfl
  | cons c rest ih =>
    obtain ⟨b, w⟩ := c
    by_cases e : b = a
    · have hx : x ≠ b := fun e' => h (e'.trans e)
      simpa [dropCell, e, cellAt, h] using ih
    · have ih' : cellAt (rest.filter fun c => c.1 ≠ a) x = cellAt rest x := ih
      simp only [dropCell, List.filter_cons, ne_eq, e, not_false_eq_true, decide_true, if_true, cellAt]
      split
      · rfl
      · simpa using ih'

/-- Read after write to the same row (R17). -/
@[simp] theorem read_write_same (m : Memory) (a : Nat) (v : Byte) : (m.write a v).read a = v := by
  unfold Memory.write Memory.read
  split
  · next h => simp [h]
  · simp

/-- A write leaves every other row alone (R120). -/
theorem read_write_other (m : Memory) {a x : Nat} (v : Byte) (h : x ≠ a) :
    (m.write a v).read x = m.read x := by
  unfold Memory.write Memory.read
  split
  · rw [cellAt_dropCell_other m h]
  · rw [cellAt_putCell_other m v h]

/-- Read after write, any row. -/
theorem read_write (m : Memory) (a x : Nat) (v : Byte) :
    (m.write a v).read x = if x = a then v else m.read x := by
  split
  · next h => rw [h, read_write_same]
  · next h => exact read_write_other m v h

@[simp] theorem read_nil (a : Nat) : Memory.read [] a = 0x00 := rfl

@[simp] theorem wf_nil : Memory.wf [] :=
  ⟨List.Pairwise.nil, fun _ h => nomatch h⟩

theorem mem_putCell {m : List Host.Cell} {a : Nat} {v : Byte} {c : Host.Cell}
    (h : c ∈ putCell m a v) : c = (a, v) ∨ c ∈ m := by
  induction m with
  | nil => simpa [putCell] using h
  | cons d rest ih =>
    obtain ⟨b, w⟩ := d
    unfold putCell at h
    split at h
    · simpa using h
    · split at h
      · rcases List.mem_cons.1 h with h | h
        · exact .inl h
        · exact .inr (List.mem_cons_of_mem _ h)
      · rcases List.mem_cons.1 h with h | h
        · exact .inr (by simp [h])
        · rcases ih h with h | h
          · exact .inl h
          · exact .inr (List.mem_cons_of_mem _ h)

/-- `putCell` keeps the addresses rising. -/
theorem putCell_rising {m : List Host.Cell} (a : Nat) (v : Byte)
    (h : m.Pairwise (fun x y => x.1 < y.1)) :
    (putCell m a v).Pairwise (fun x y => x.1 < y.1) := by
  induction m with
  | nil => simp [putCell]
  | cons d rest ih =>
    obtain ⟨b, w⟩ := d
    obtain ⟨hd, hr⟩ := List.pairwise_cons.1 h
    unfold putCell
    split
    · next hlt =>
      refine List.pairwise_cons.2 ⟨fun c hc => ?_, h⟩
      rcases List.mem_cons.1 hc with e | hc
      · simpa [e] using hlt
      · exact Nat.lt_trans hlt (hd c hc)
    · split
      · next e => subst e; exact List.pairwise_cons.2 ⟨hd, hr⟩
      · next h1 h2 =>
        refine List.pairwise_cons.2 ⟨fun c hc => ?_, ih hr⟩
        rcases mem_putCell hc with e | hc
        · subst e; exact Nat.lt_of_le_of_ne (Nat.le_of_not_lt h1) (fun e => h2 e.symm)
        · exact hd c hc

/-- Every memory write keeps the canonical form. -/
theorem write_wf {m : Memory} (h : m.wf) {a : Nat} (ha : a < 8) (v : Byte) : (m.write a v).wf := by
  unfold Memory.write
  split
  · exact ⟨h.1.filter _, fun c hc => h.2 c (List.mem_filter.1 hc).1⟩
  · next hv =>
    refine ⟨putCell_rising a v h.1, fun c hc => ?_⟩
    rcases mem_putCell hc with e | hc
    · subst e; exact ⟨ha, hv⟩
    · exact h.2 c hc

theorem cellAt_of_mem {m : List Host.Cell} (h : m.Pairwise (fun x y => x.1 < y.1)) {c : Host.Cell}
    (hc : c ∈ m) : cellAt m c.1 = some c.2 := by
  induction m with
  | nil => simp at hc
  | cons d rest ih =>
    obtain ⟨b, w⟩ := d
    obtain ⟨hd, hr⟩ := List.pairwise_cons.1 h
    rcases List.mem_cons.1 hc with e | hc
    · subst e; simp [cellAt]
    · have := hd c hc
      simp only [cellAt, if_neg (show c.1 ≠ b from fun e => by simp [e] at this)]
      exact ih hr hc

theorem mem_of_cellAt {m : List Host.Cell} {a : Nat} {v : Byte} (h : cellAt m a = some v) :
    (a, v) ∈ m := by
  induction m with
  | nil => simp [cellAt] at h
  | cons d rest ih =>
    obtain ⟨b, w⟩ := d
    unfold cellAt at h
    split at h
    · next e => subst e; cases h; simp
    · exact List.mem_cons_of_mem _ (ih h)

/-- A canonical framebuffer that reads 0x00 in every row lists nothing. -/
theorem eq_nil_of_reads_zero {m : Memory} (h : m.wf) (h0 : ∀ r : Fin 8, m.read r.val = 0x00) :
    m = [] := by
  rcases m with _ | ⟨c, rest⟩
  · rfl
  · exfalso
    have hc := h.2 c (by simp)
    have hr : cellAt (c :: rest) c.1 = some c.2 := cellAt_of_mem h.1 (by simp)
    have := h0 ⟨c.1, hc.1⟩
    simp only [Memory.read, hr, Option.getD_some] at this
    exact hc.2 this

end Sys2Proof.Machine
end

