-- ==== Sys2Proof/Laws/Chip.lean ====
section
/-! SUPPORT. What a write does to the attached chip (60_exceptions.md R268 to R271): it keeps the
canonical form and the address, and each frame kind has its effect. -/

namespace Sys2Proof.Machine

open Sys2Proof

theorem Chip.store_keeps (l : List Byte) (c : Chip) :
    (Chip.store l c).addr = c.addr ∧ (Chip.store l c).osc = c.osc ∧
    (Chip.store l c).displayOn = c.displayOn ∧ (Chip.store l c).blink = c.blink ∧
    (Chip.store l c).dimming = c.dimming := by
  induction l generalizing c with
  | nil => simp [Chip.store]
  | cons b rest ih => simpa [Chip.store] using ih _

theorem Chip.store_wf (l : List Byte) {c : Chip} (h : c.wf) : (Chip.store l c).wf := by
  induction l generalizing c with
  | nil => exact h
  | cons b rest ih =>
    refine ih ⟨putCell_rising _ _ h.1, fun x hx => ?_⟩
    rcases mem_putCell hx with e | hx
    · subst e; exact c.pointer.isLt
    · exact h.2 x hx

theorem Chip.powerUp_wf (n : Nat) (a : DeviceAddress) : (Chip.powerUp n a).wf :=
  ⟨List.Pairwise.nil, fun _ h => nomatch h⟩

theorem Chip.unspecified_wf (n : Nat) (c : Chip) : (Chip.unspecified n c).wf :=
  ⟨List.Pairwise.nil, fun _ h => nomatch h⟩

@[simp] theorem Chip.unspecified_addr (n : Nat) (c : Chip) : (Chip.unspecified n c).addr = c.addr := rfl

@[simp] theorem Chip.unspecified_osc (n : Nat) (c : Chip) :
    (Chip.unspecified n c).osc = (c.osc || Config.unspecifiedChipOsc n) := rfl

@[simp] theorem Chip.powerUp_osc (n : Nat) (a : DeviceAddress) : (Chip.powerUp n a).osc = false := rfl

theorem Chip.command_wf (n : Nat) (b : Byte) {c : Chip} (h : c.wf) : (Chip.command n b c).wf := by
  unfold Chip.command
  split
  · exact h
  · split
    · exact h
    · split
      · exact h
      · exact Chip.unspecified_wf n c

/-- Every write keeps the display RAM canonical. -/
theorem Chip.receive_wf (n : Nat) (dest : DeviceAddress) (bytes : List Byte) {c : Chip} (h : c.wf) :
    (Chip.receive n dest bytes c).wf := by
  unfold Chip.receive
  split
  · unfold Chip.accept
    split
    · exact h
    · split
      · exact Chip.store_wf _ h
      · split
        · exact Chip.command_wf n _ h
        · exact Chip.unspecified_wf n c
  · exact h

/-- No write changes the address the chip answers to. -/
@[simp] theorem Chip.receive_addr (n : Nat) (dest : DeviceAddress) (bytes : List Byte) (c : Chip) :
    (Chip.receive n dest bytes c).addr = c.addr := by
  unfold Chip.receive
  split
  · unfold Chip.accept
    split
    · rfl
    · split
      · exact (Chip.store_keeps _ _).1
      · split
        · unfold Chip.command
          split
          · rfl
          · split
            · rfl
            · split <;> rfl
        · rfl
  · rfl

/-- A write to another address does nothing to the chip. -/
theorem Chip.receive_elsewhere (n : Nat) {dest : DeviceAddress} (bytes : List Byte) {c : Chip}
    (h : dest ≠ c.addr) : Chip.receive n dest bytes c = c := by
  simp [Chip.receive, h]

@[simp] theorem Chip.receive_nil (n : Nat) (dest : DeviceAddress) (c : Chip) :
    Chip.receive n dest [] c = c := by
  unfold Chip.receive; split <;> rfl

/-- No write makes the chip forget a received `[0x21]` (R268, R272). -/
theorem Chip.receive_osc_stays (n : Nat) (dest : DeviceAddress) (bytes : List Byte) {c : Chip}
    (h : c.osc = true) : (Chip.receive n dest bytes c).osc = true := by
  unfold Chip.receive
  split
  · unfold Chip.accept
    split
    · exact h
    · split
      · exact (Chip.store_keeps _ _).2.1.trans h
      · split
        · unfold Chip.command
          split
          · rfl
          · split
            · exact h
            · split
              · exact h
              · simp [h]
        · simp [h]
  · exact h

/-- Without `[0x21]` received nothing is lit, whatever the RAM holds (R268). -/
theorem Chip.lit_of_osc_off {k : Chip} (h : k.osc = false) (r c : Fin 8) : k.lit r c = some false := by
  simp [Chip.lit, h]

/-- With the display-on flag 0 nothing is lit, whatever the RAM holds (R272). -/
theorem Chip.lit_of_display_off {k : Chip} (h : k.displayOn = false) (r c : Fin 8) :
    k.lit r c = some false := by
  simp [Chip.lit, h]

/-- Where the RAM byte is known, the three conditions of R272 decide. -/
theorem Chip.lit_of_known {k : Chip} {r : Fin 8} {b : Byte} (h : cellAt k.ram (2 * r.val) = some b)
    (c : Fin 8) : k.lit r c = some (k.osc && k.displayOn && b.getLsbD c.val) := by
  unfold Chip.lit
  rw [h]
  cases k.osc <;> cases k.displayOn <;> rfl

end Sys2Proof.Machine
end

