-- ==== Sys2Proof/Laws/Decode.lean ====
section
/-! SUPPORT. A word is its three fields (30_encoding.md R70): splitting a packed word, and packing a
split one. -/

namespace Sys2Proof

/-- Bit `k` of a packed word comes from D, A or OP. -/
theorem getLsbD_packWord (o a : BitVec 4) (d : BitVec 8) (k : Nat) :
    (packWord o a d).getLsbD k =
      if k < 8 then d.getLsbD k else if k - 8 < 4 then a.getLsbD (k - 8) else o.getLsbD (k - 8 - 4) := by
  simp only [packWord, BitVec.getLsbD_append]

@[simp] theorem fieldOp_packWord (o a : BitVec 4) (d : BitVec 8) : fieldOp (packWord o a d) = o := by
  refine BitVec.eq_of_getLsbD_eq fun k hk => ?_
  rw [fieldOp, BitVec.getLsbD_extractLsb', getLsbD_packWord, if_neg (by omega), if_neg (by omega),
    show 12 + k - 8 - 4 = k by omega]
  simp [hk]

@[simp] theorem fieldA_packWord (o a : BitVec 4) (d : BitVec 8) : fieldA (packWord o a d) = a := by
  refine BitVec.eq_of_getLsbD_eq fun k hk => ?_
  rw [fieldA, BitVec.getLsbD_extractLsb', getLsbD_packWord, if_neg (by omega), if_pos (by omega),
    show 8 + k - 8 = k by omega]
  simp [hk]

@[simp] theorem fieldD_packWord (o a : BitVec 4) (d : BitVec 8) : fieldD (packWord o a d) = d := by
  refine BitVec.eq_of_getLsbD_eq fun k hk => ?_
  rw [fieldD, BitVec.getLsbD_extractLsb', getLsbD_packWord, if_pos (by omega), Nat.zero_add]
  simp [hk]

/-- Packing a word's own fields gives the word. -/
theorem packWord_fields (w : CommandWord) : packWord (fieldOp w) (fieldA w) (fieldD w) = w := by
  refine BitVec.eq_of_getLsbD_eq fun k hk => ?_
  rw [getLsbD_packWord, fieldOp, fieldA, fieldD]
  simp only [BitVec.getLsbD_extractLsb']
  split
  · next h => simp [h]
  · next h =>
    split
    · next h' => simp [h', show 8 + (k - 8) = k by omega]
    · next h' =>
      simp [show k - 8 - 4 < 4 by omega, show 12 + (k - 8 - 4) = k by omega]

/-- Two packed words are equal exactly when their fields are. -/
theorem packWord_inj {o a o' a' : BitVec 4} {d d' : BitVec 8} :
    packWord o a d = packWord o' a' d' ↔ o = o' ∧ a = a' ∧ d = d' := by
  constructor
  · intro h
    exact ⟨by simpa using congrArg fieldOp h, by simpa using congrArg fieldA h,
      by simpa using congrArg fieldD h⟩
  · rintro ⟨rfl, rfl, rfl⟩; rfl

/-- Masking works field by field. -/
theorem packWord_and (o a o' a' : BitVec 4) (d d' : BitVec 8) :
    packWord o a d &&& packWord o' a' d' = packWord (o &&& o') (a &&& a') (d &&& d') := by
  refine BitVec.eq_of_getLsbD_eq fun k hk => ?_
  simp only [BitVec.getLsbD_and, getLsbD_packWord]
  split
  · rfl
  · split <;> rfl

/-- Every selector is one of the sixteen. -/
theorem selector_cases (o : BitVec 4) :
    o = 0x0 ∨ o = 0x1 ∨ o = 0x2 ∨ o = 0x3 ∨ o = 0x4 ∨ o = 0x5 ∨ o = 0x6 ∨ o = 0x7 ∨
    o = 0x8 ∨ o = 0x9 ∨ o = 0xA ∨ o = 0xB ∨ o = 0xC ∨ o = 0xD ∨ o = 0xE ∨ o = 0xF := by
  revert o; decide

end Sys2Proof
end

