-- ==== Sys2Proof/Laws/FrameBuffer.lean ====
section
/-! SUPPORT. What the FrameBuffer functions leave in each row, and that they keep the canonical form
(41_framebuffer.md R120 to R128). -/

namespace Sys2Proof.Machine

open Sys2Proof

/-- A pass over the rows: row r holds `f` of its own old byte. -/
theorem read_forRows (f : Fin 8 → Byte → Byte) (m : Memory) (r : Fin 8) :
    (forRows f m).read r.val = f r (m.read r.val) := by
  fin_cases r <;> simp [forRows, rowIndices, read_write]

/-- A pass over the rows touches no other address. -/
theorem read_forRows_other (f : Fin 8 → Byte → Byte) (m : Memory) {a : Nat} (h : 8 ≤ a) :
    (forRows f m).read a = m.read a := by
  unfold forRows
  generalize rowIndices = l
  induction l generalizing m with
  | nil => rfl
  | cons r rest ih =>
    rw [List.foldl_cons, ih, read_write_other _ _ (by have := r.isLt; omega)]

/-- A pass over the rows keeps the canonical form. -/
theorem forRows_wf (f : Fin 8 → Byte → Byte) {m : Memory} (h : m.wf) : (forRows f m).wf := by
  unfold forRows
  generalize rowIndices = l
  induction l generalizing m with
  | nil => exact h
  | cons r rest ih => exact ih (write_wf h r.isLt _)

theorem read_fbSetPixel (m : Memory) (r c : Fin 8) (a : Nat) :
    (fbSetPixel m r c).read a = if a = r.val then m.read r.val ||| columnMask c else m.read a :=
  read_write m r.val a _

theorem read_fbClearPixel (m : Memory) (r c : Fin 8) (a : Nat) :
    (fbClearPixel m r c).read a = if a = r.val then m.read r.val &&& ~~~columnMask c else m.read a :=
  read_write m r.val a _

theorem read_fbSetRow (m : Memory) (r : Fin 8) (v : Byte) (a : Nat) :
    (fbSetRow m r v).read a = if a = r.val then v else m.read a :=
  read_write m r.val a _

theorem read_fbClearRow (m : Memory) (r : Fin 8) (a : Nat) :
    (fbClearRow m r).read a = if a = r.val then 0x00 else m.read a :=
  read_write m r.val a _

theorem read_fbClearColumn (m : Memory) (c r : Fin 8) :
    (fbClearColumn m c).read r.val = m.read r.val &&& ~~~columnMask c :=
  read_forRows _ m r

theorem read_fbZeroAll (m : Memory) (r : Fin 8) : (fbZeroAll m).read r.val = 0x00 :=
  read_forRows _ m r

theorem read_fbReplaceAll (m : Memory) (bmp : Bitmap) (r : Fin 8) :
    (fbReplaceAll m bmp).read r.val = bitmapRow bmp r :=
  read_forRows _ m r

/-- `fb_set_column`, with or without the short-circuit: the cleared row OR its contribution (R125). -/
theorem read_fbSetColumn (order : ColumnOrder) (m : Memory) (c : Fin 8) (v : Byte) (r : Fin 8) :
    (fbSetColumn order m c v).read r.val =
      (m.read r.val &&& ~~~columnMask c) ||| colContribution order v r c := by
  unfold fbSetColumn
  split
  · next h =>
    have hz : colContribution order v r c = 0#8 :=
      byte_ext fun k hk => by
        rw [getLsbD_colContribution _ _ _ _ _ hk, h]
        simp
    rw [read_fbClearColumn, hz]; simp
  · rw [read_forRows, read_fbClearColumn]

/-- The address of a buffer function's write is a row: every other address reads as before. -/
theorem read_fbSetColumn_other (order : ColumnOrder) (m : Memory) (c : Fin 8) (v : Byte) {a : Nat}
    (h : 8 ≤ a) : (fbSetColumn order m c v).read a = m.read a := by
  unfold fbSetColumn
  split
  · exact read_forRows_other _ m h
  · rw [read_forRows_other _ _ h]; exact read_forRows_other _ m h

theorem read_fbClearColumn_other (m : Memory) (c : Fin 8) {a : Nat} (h : 8 ≤ a) :
    (fbClearColumn m c).read a = m.read a := read_forRows_other _ m h

theorem read_fbZeroAll_other (m : Memory) {a : Nat} (h : 8 ≤ a) : (fbZeroAll m).read a = m.read a :=
  read_forRows_other _ m h

theorem read_fbReplaceAll_other (m : Memory) (bmp : Bitmap) {a : Nat} (h : 8 ≤ a) :
    (fbReplaceAll m bmp).read a = m.read a := read_forRows_other _ m h

theorem fbSetPixel_wf {m : Memory} (h : m.wf) (r c : Fin 8) : (fbSetPixel m r c).wf :=
  write_wf h r.isLt _

theorem fbClearPixel_wf {m : Memory} (h : m.wf) (r c : Fin 8) : (fbClearPixel m r c).wf :=
  write_wf h r.isLt _

theorem fbSetRow_wf {m : Memory} (h : m.wf) (r : Fin 8) (v : Byte) : (fbSetRow m r v).wf :=
  write_wf h r.isLt _

theorem fbClearRow_wf {m : Memory} (h : m.wf) (r : Fin 8) : (fbClearRow m r).wf :=
  write_wf h r.isLt _

theorem fbClearColumn_wf {m : Memory} (h : m.wf) (c : Fin 8) : (fbClearColumn m c).wf :=
  forRows_wf _ h

theorem fbSetColumn_wf (order : ColumnOrder) {m : Memory} (h : m.wf) (c : Fin 8) (v : Byte) :
    (fbSetColumn order m c v).wf := by
  unfold fbSetColumn
  split
  · exact fbClearColumn_wf h c
  · exact forRows_wf _ (fbClearColumn_wf h c)

theorem fbZeroAll_wf {m : Memory} (h : m.wf) : (fbZeroAll m).wf := forRows_wf _ h

theorem fbReplaceAll_wf {m : Memory} (h : m.wf) (bmp : Bitmap) : (fbReplaceAll m bmp).wf :=
  forRows_wf _ h

end Sys2Proof.Machine
end

