-- ==== Sys2Proof/Laws/Frames.lean ====
section
/-! SUPPORT. What each frame of the block, or a part of it, does to the attached chip: the reference
reading (60_exceptions.md R268 to R271) met by the frames of 42_protocol_encoder.md R141 to R146. -/

namespace Sys2Proof.Machine

open Sys2Proof

/-- The power frame while on (R142) turns the display on and sets the blink mode (R269). -/
theorem Chip.receive_power_on (n : Nat) (d : DeviceAddress) (m : BitVec 2) (c : Chip) :
    Chip.receive n d [0x81#8 ||| (m.setWidth 8 <<< 1)] c =
      if d = c.addr then { c with displayOn := true, blink := m } else c := by
  have h : ∀ m : BitVec 2, ¬(0x81#8 ||| (m.setWidth 8 <<< 1)).toNat < 16 ∧
      0x81#8 ||| (m.setWidth 8 <<< 1) ≠ 0x21 ∧ (0x81#8 ||| (m.setWidth 8 <<< 1)) &&& 0xF8 = 0x80 ∧
      (0x81#8 ||| (m.setWidth 8 <<< 1)).getLsbD 0 = true ∧
      (0x81#8 ||| (m.setWidth 8 <<< 1)).extractLsb' 1 2 = m := by decide
  obtain ⟨h1, h2, h3, h4, h5⟩ := h m
  unfold Chip.receive Chip.accept Chip.command
  simp only [if_neg h1, if_true, if_neg h2, if_pos h3, h4, h5]

/-- The power frame while off (R142) turns the display off (R269). -/
theorem Chip.receive_power_off (n : Nat) (d : DeviceAddress) (c : Chip) :
    Chip.receive n d [0x80] c =
      if d = c.addr then { c with displayOn := false, blink := 0 } else c := rfl

/-- The oscillator frame (R141) starts the oscillator (R268). -/
theorem Chip.receive_osc (n : Nat) (d : DeviceAddress) (c : Chip) :
    Chip.receive n d [0x21] c = if d = c.addr then { c with osc := true } else c := rfl

/-- The brightness frame (R143) sets the brightness (R270). -/
theorem Chip.receive_brightness (n : Nat) (d : DeviceAddress) (v : BitVec 4) (c : Chip) :
    Chip.receive n d [0xE0 ||| v.setWidth 8] c =
      if d = c.addr then { c with dimming := v } else c := by
  have h : ∀ v : BitVec 4, ¬(0xE0 ||| v.setWidth 8 : Byte).toNat < 16 ∧ (0xE0 ||| v.setWidth 8 : Byte) ≠ 0x21 ∧
      (0xE0 ||| v.setWidth 8 : Byte) &&& 0xF8 ≠ 0x80 ∧ (0xE0 ||| v.setWidth 8 : Byte) &&& 0xF0 = 0xE0 ∧
      (0xE0 ||| v.setWidth 8 : Byte).extractLsb' 0 4 = v := by decide
  obtain ⟨h1, h2, h3, h4, h5⟩ := h v
  unfold Chip.receive Chip.accept Chip.command
  simp only [if_neg h1, if_true, if_neg h2, if_neg h3, if_pos h4, h5]

/-- A write that begins with a RAM address, or delivers nothing, changes only the pointer and RAM. -/
theorem Chip.receive_data_keeps (n : Nat) (d : DeviceAddress) {bytes : List Byte} (c : Chip)
    (h : ∀ p ∈ bytes.head?, p.toNat < 16) :
    (Chip.receive n d bytes c).osc = c.osc ∧ (Chip.receive n d bytes c).displayOn = c.displayOn ∧
    (Chip.receive n d bytes c).blink = c.blink ∧ (Chip.receive n d bytes c).dimming = c.dimming := by
  unfold Chip.receive
  split
  · cases bytes with
    | nil => exact ⟨rfl, rfl, rfl, rfl⟩
    | cons p data =>
      have hp : p.toNat < 16 := h p (by simp)
      unfold Chip.accept
      simp only [if_pos hp]
      exact ⟨(Chip.store_keeps _ _).2.1, (Chip.store_keeps _ _).2.2.1,
        (Chip.store_keeps _ _).2.2.2.1, (Chip.store_keeps _ _).2.2.2.2⟩
  · exact ⟨rfl, rfl, rfl, rfl⟩

/-- A prefix of a list begins as the list does. -/
theorem head?_take {bytes : List Byte} {k : Nat} {p : Byte} (h : p ∈ (bytes.take k).head?) :
    p ∈ bytes.head? := by
  cases bytes <;> cases k <;> simp_all

theorem rowAddr_eq (r : Fin 8) : rowAddr r = BitVec.ofNat 8 (2 * r.val) := by
  revert r; decide

theorem rowAddr_toNat (r : Fin 8) : (rowAddr r).toNat = 2 * r.val := by
  revert r; decide

theorem rowAddr_pointer (r : Fin 8) : ((rowAddr r).extractLsb' 0 4).toNat = 2 * r.val := by
  revert r; decide

/-- A row frame and a full frame begin with a RAM address. -/
theorem rowFrame_head (r : Fin 8) (s : State) : ∀ p ∈ (rowFrame r s).head?, p.toNat < 16 := by
  simp only [rowFrame, List.head?_cons, Option.mem_def, Option.some.injEq, forall_eq']
  rw [rowAddr_toNat]; omega

theorem fullFrame_head (s : State) : ∀ p ∈ (fullFrame s).head?, p.toNat < 16 := by
  simp [fullFrame, rowIndices]

/-- A row frame, or a part of it, leaves every RAM byte but that of its row (R144, R271). -/
theorem Chip.receive_row_other (n : Nat) (d : DeviceAddress) (r : Fin 8) (s : State) (k : Nat)
    (c : Chip) {a : Nat} (h : a ≠ 2 * r.val) :
    cellAt (Chip.receive n d ((rowFrame r s).take k) c).ram a = cellAt c.ram a := by
  have hr := rowAddr_toNat r
  have hlt : (rowAddr r).toNat < 16 := by omega
  have hp : ((rowAddr r).extractLsb' 0 4).toNat = 2 * r.val := rowAddr_pointer r
  unfold Chip.receive
  split
  · rcases k with _ | _ | k
    · rfl
    · simp [rowFrame, Chip.accept, hlt, Chip.store]
    · simp only [rowFrame, List.take_succ_cons, List.take_nil, Chip.accept, if_pos hlt, Chip.store]
      exact cellAt_putCell_other _ _ (by rw [hp]; exact h)
  · rfl

/-- A whole row frame stores the reversed row in the RAM byte of its row (R144, R271). -/
theorem Chip.receive_row (n : Nat) {d : DeviceAddress} (r : Fin 8) (s : State) {c : Chip}
    (h : d = c.addr) :
    cellAt (Chip.receive n d (rowFrame r s) c).ram (2 * r.val) =
      some (reverseBits (s.rows.read r.val)) := by
  have hr := rowAddr_toNat r
  have hlt : (rowAddr r).toNat < 16 := by omega
  have hp : ((rowAddr r).extractLsb' 0 4).toNat = 2 * r.val := rowAddr_pointer r
  unfold Chip.receive
  simp only [if_pos h, rowFrame, Chip.accept, if_pos hlt, Chip.store]
  rw [hp]; exact cellAt_putCell_same _ _ _

/-- A whole full frame stores every reversed row (R145, R271). -/
theorem Chip.receive_full (n : Nat) {d : DeviceAddress} (s : State) {c : Chip} (h : d = c.addr)
    (r : Fin 8) :
    cellAt (Chip.receive n d (fullFrame s) c).ram (2 * r.val) =
      some (reverseBits (s.rows.read r.val)) := by
  unfold Chip.receive
  simp only [if_pos h, fullFrame, rowIndices, List.flatMap_cons, List.flatMap_nil, List.cons_append,
    List.nil_append, Chip.accept, List.append_nil]
  fin_cases r <;> simp [Chip.store, cellAt_putCell_other]

end Sys2Proof.Machine
end

