-- ==== Sys2Proof/Laws/State.lean ====
section
/-! SUPPORT. One lemma per field per update of the state, so that no proof unfolds a record update; and
the result of the next write under the register updates. -/

namespace Sys2Proof.Machine

open Sys2Proof

/-! `State.setRows` -/

@[simp] theorem State.setRows_rows (m : Memory) (s : State) : (s.setRows m).rows = m := rfl
@[simp] theorem State.setRows_on (m : Memory) (s : State) : (s.setRows m).on = s.on := rfl
@[simp] theorem State.setRows_blink (m : Memory) (s : State) : (s.setRows m).blink = s.blink := rfl
@[simp] theorem State.setRows_bright (m : Memory) (s : State) :
    (s.setRows m).bright = s.bright := rfl
@[simp] theorem State.setRows_devaddr (m : Memory) (s : State) :
    (s.setRows m).devaddr = s.devaddr := rfl
@[simp] theorem State.setRows_life (m : Memory) (s : State) : (s.setRows m).life = s.life := rfl
@[simp] theorem State.setRows_columnOrder (m : Memory) (s : State) :
    (s.setRows m).columnOrder = s.columnOrder := rfl
@[simp] theorem State.setRows_pending (m : Memory) (s : State) :
    (s.setRows m).pending = s.pending := rfl
@[simp] theorem State.setRows_results (m : Memory) (s : State) :
    (s.setRows m).results = s.results := rfl
@[simp] theorem State.setRows_trace (m : Memory) (s : State) : (s.setRows m).trace = s.trace := rfl
@[simp] theorem State.setRows_draws (m : Memory) (s : State) : (s.setRows m).draws = s.draws := rfl
@[simp] theorem State.setRows_chip (m : Memory) (s : State) : (s.setRows m).chip = s.chip := rfl

/-! `State.setOn` -/

@[simp] theorem State.setOn_rows (b : Bool) (s : State) : (s.setOn b).rows = s.rows := rfl
@[simp] theorem State.setOn_on (b : Bool) (s : State) : (s.setOn b).on = b := rfl
@[simp] theorem State.setOn_blink (b : Bool) (s : State) : (s.setOn b).blink = s.blink := rfl
@[simp] theorem State.setOn_bright (b : Bool) (s : State) : (s.setOn b).bright = s.bright := rfl
@[simp] theorem State.setOn_devaddr (b : Bool) (s : State) : (s.setOn b).devaddr = s.devaddr := rfl
@[simp] theorem State.setOn_life (b : Bool) (s : State) : (s.setOn b).life = s.life := rfl
@[simp] theorem State.setOn_columnOrder (b : Bool) (s : State) :
    (s.setOn b).columnOrder = s.columnOrder := rfl
@[simp] theorem State.setOn_pending (b : Bool) (s : State) : (s.setOn b).pending = s.pending := rfl
@[simp] theorem State.setOn_results (b : Bool) (s : State) : (s.setOn b).results = s.results := rfl
@[simp] theorem State.setOn_trace (b : Bool) (s : State) : (s.setOn b).trace = s.trace := rfl
@[simp] theorem State.setOn_draws (b : Bool) (s : State) : (s.setOn b).draws = s.draws := rfl
@[simp] theorem State.setOn_chip (b : Bool) (s : State) : (s.setOn b).chip = s.chip := rfl

/-! `State.setBlink` -/

@[simp] theorem State.setBlink_rows (m : BitVec 2) (s : State) : (s.setBlink m).rows = s.rows := rfl
@[simp] theorem State.setBlink_on (m : BitVec 2) (s : State) : (s.setBlink m).on = s.on := rfl
@[simp] theorem State.setBlink_blink (m : BitVec 2) (s : State) : (s.setBlink m).blink = m := rfl
@[simp] theorem State.setBlink_bright (m : BitVec 2) (s : State) :
    (s.setBlink m).bright = s.bright := rfl
@[simp] theorem State.setBlink_devaddr (m : BitVec 2) (s : State) :
    (s.setBlink m).devaddr = s.devaddr := rfl
@[simp] theorem State.setBlink_life (m : BitVec 2) (s : State) : (s.setBlink m).life = s.life := rfl
@[simp] theorem State.setBlink_columnOrder (m : BitVec 2) (s : State) :
    (s.setBlink m).columnOrder = s.columnOrder := rfl
@[simp] theorem State.setBlink_pending (m : BitVec 2) (s : State) :
    (s.setBlink m).pending = s.pending := rfl
@[simp] theorem State.setBlink_results (m : BitVec 2) (s : State) :
    (s.setBlink m).results = s.results := rfl
@[simp] theorem State.setBlink_trace (m : BitVec 2) (s : State) :
    (s.setBlink m).trace = s.trace := rfl
@[simp] theorem State.setBlink_draws (m : BitVec 2) (s : State) :
    (s.setBlink m).draws = s.draws := rfl
@[simp] theorem State.setBlink_chip (m : BitVec 2) (s : State) : (s.setBlink m).chip = s.chip := rfl

/-! `State.setBright` -/

@[simp] theorem State.setBright_rows (v : BitVec 4) (s : State) :
    (s.setBright v).rows = s.rows := rfl
@[simp] theorem State.setBright_on (v : BitVec 4) (s : State) : (s.setBright v).on = s.on := rfl
@[simp] theorem State.setBright_blink (v : BitVec 4) (s : State) :
    (s.setBright v).blink = s.blink := rfl
@[simp] theorem State.setBright_bright (v : BitVec 4) (s : State) :
    (s.setBright v).bright = v := rfl
@[simp] theorem State.setBright_devaddr (v : BitVec 4) (s : State) :
    (s.setBright v).devaddr = s.devaddr := rfl
@[simp] theorem State.setBright_life (v : BitVec 4) (s : State) :
    (s.setBright v).life = s.life := rfl
@[simp] theorem State.setBright_columnOrder (v : BitVec 4) (s : State) :
    (s.setBright v).columnOrder = s.columnOrder := rfl
@[simp] theorem State.setBright_pending (v : BitVec 4) (s : State) :
    (s.setBright v).pending = s.pending := rfl
@[simp] theorem State.setBright_results (v : BitVec 4) (s : State) :
    (s.setBright v).results = s.results := rfl
@[simp] theorem State.setBright_trace (v : BitVec 4) (s : State) :
    (s.setBright v).trace = s.trace := rfl
@[simp] theorem State.setBright_draws (v : BitVec 4) (s : State) :
    (s.setBright v).draws = s.draws := rfl
@[simp] theorem State.setBright_chip (v : BitVec 4) (s : State) :
    (s.setBright v).chip = s.chip := rfl

/-! `State.setDevaddr` -/

@[simp] theorem State.setDevaddr_rows (a : DeviceAddress) (s : State) :
    (s.setDevaddr a).rows = s.rows := rfl
@[simp] theorem State.setDevaddr_on (a : DeviceAddress) (s : State) :
    (s.setDevaddr a).on = s.on := rfl
@[simp] theorem State.setDevaddr_blink (a : DeviceAddress) (s : State) :
    (s.setDevaddr a).blink = s.blink := rfl
@[simp] theorem State.setDevaddr_bright (a : DeviceAddress) (s : State) :
    (s.setDevaddr a).bright = s.bright := rfl
@[simp] theorem State.setDevaddr_devaddr (a : DeviceAddress) (s : State) :
    (s.setDevaddr a).devaddr = a := rfl
@[simp] theorem State.setDevaddr_life (a : DeviceAddress) (s : State) :
    (s.setDevaddr a).life = s.life := rfl
@[simp] theorem State.setDevaddr_columnOrder (a : DeviceAddress) (s : State) :
    (s.setDevaddr a).columnOrder = s.columnOrder := rfl
@[simp] theorem State.setDevaddr_pending (a : DeviceAddress) (s : State) :
    (s.setDevaddr a).pending = s.pending := rfl
@[simp] theorem State.setDevaddr_results (a : DeviceAddress) (s : State) :
    (s.setDevaddr a).results = s.results := rfl
@[simp] theorem State.setDevaddr_trace (a : DeviceAddress) (s : State) :
    (s.setDevaddr a).trace = s.trace := rfl
@[simp] theorem State.setDevaddr_draws (a : DeviceAddress) (s : State) :
    (s.setDevaddr a).draws = s.draws := rfl
@[simp] theorem State.setDevaddr_chip (a : DeviceAddress) (s : State) :
    (s.setDevaddr a).chip = s.chip := rfl

/-! `State.setLife` -/

@[simp] theorem State.setLife_rows (l : Life) (s : State) : (s.setLife l).rows = s.rows := rfl
@[simp] theorem State.setLife_on (l : Life) (s : State) : (s.setLife l).on = s.on := rfl
@[simp] theorem State.setLife_blink (l : Life) (s : State) : (s.setLife l).blink = s.blink := rfl
@[simp] theorem State.setLife_bright (l : Life) (s : State) : (s.setLife l).bright = s.bright := rfl
@[simp] theorem State.setLife_devaddr (l : Life) (s : State) :
    (s.setLife l).devaddr = s.devaddr := rfl
@[simp] theorem State.setLife_life (l : Life) (s : State) : (s.setLife l).life = l := rfl
@[simp] theorem State.setLife_columnOrder (l : Life) (s : State) :
    (s.setLife l).columnOrder = s.columnOrder := rfl
@[simp] theorem State.setLife_pending (l : Life) (s : State) :
    (s.setLife l).pending = s.pending := rfl
@[simp] theorem State.setLife_results (l : Life) (s : State) :
    (s.setLife l).results = s.results := rfl
@[simp] theorem State.setLife_trace (l : Life) (s : State) : (s.setLife l).trace = s.trace := rfl
@[simp] theorem State.setLife_draws (l : Life) (s : State) : (s.setLife l).draws = s.draws := rfl
@[simp] theorem State.setLife_chip (l : Life) (s : State) : (s.setLife l).chip = s.chip := rfl

/-! `State.takeAction` -/

@[simp] theorem State.takeAction_rows (s : State) : s.takeAction.rows = s.rows := rfl
@[simp] theorem State.takeAction_on (s : State) : s.takeAction.on = s.on := rfl
@[simp] theorem State.takeAction_blink (s : State) : s.takeAction.blink = s.blink := rfl
@[simp] theorem State.takeAction_bright (s : State) : s.takeAction.bright = s.bright := rfl
@[simp] theorem State.takeAction_devaddr (s : State) : s.takeAction.devaddr = s.devaddr := rfl
@[simp] theorem State.takeAction_life (s : State) : s.takeAction.life = s.life := rfl
@[simp] theorem State.takeAction_columnOrder (s : State) :
    s.takeAction.columnOrder = s.columnOrder := rfl
@[simp] theorem State.takeAction_pending (s : State) : s.takeAction.pending = s.pending.tail := rfl
@[simp] theorem State.takeAction_results (s : State) : s.takeAction.results = s.results := rfl
@[simp] theorem State.takeAction_trace (s : State) : s.takeAction.trace = s.trace := rfl
@[simp] theorem State.takeAction_draws (s : State) : s.takeAction.draws = s.draws := rfl
@[simp] theorem State.takeAction_chip (s : State) : s.takeAction.chip = s.chip := rfl

/-! `State.respond` -/

@[simp] theorem State.respond_rows (st : Status) (s : State) : (s.respond st).rows = s.rows := rfl
@[simp] theorem State.respond_on (st : Status) (s : State) : (s.respond st).on = s.on := rfl
@[simp] theorem State.respond_blink (st : Status) (s : State) :
    (s.respond st).blink = s.blink := rfl
@[simp] theorem State.respond_bright (st : Status) (s : State) :
    (s.respond st).bright = s.bright := rfl
@[simp] theorem State.respond_devaddr (st : Status) (s : State) :
    (s.respond st).devaddr = s.devaddr := rfl
@[simp] theorem State.respond_life (st : Status) (s : State) : (s.respond st).life = s.life := rfl
@[simp] theorem State.respond_columnOrder (st : Status) (s : State) :
    (s.respond st).columnOrder = s.columnOrder := rfl
@[simp] theorem State.respond_pending (st : Status) (s : State) :
    (s.respond st).pending = s.pending := rfl
@[simp] theorem State.respond_results (st : Status) (s : State) :
    (s.respond st).results = s.results := rfl
@[simp] theorem State.respond_trace (st : Status) (s : State) :
    (s.respond st).trace = s.trace ++ [.response st] := rfl
@[simp] theorem State.respond_draws (st : Status) (s : State) :
    (s.respond st).draws = s.draws := rfl
@[simp] theorem State.respond_chip (st : Status) (s : State) : (s.respond st).chip = s.chip := rfl

/-! `State.afterWrite` -/

@[simp] theorem State.afterWrite_rows (f : List Byte) (s : State) :
    (s.afterWrite f).rows = s.rows := rfl
@[simp] theorem State.afterWrite_on (f : List Byte) (s : State) : (s.afterWrite f).on = s.on := rfl
@[simp] theorem State.afterWrite_blink (f : List Byte) (s : State) :
    (s.afterWrite f).blink = s.blink := rfl
@[simp] theorem State.afterWrite_bright (f : List Byte) (s : State) :
    (s.afterWrite f).bright = s.bright := rfl
@[simp] theorem State.afterWrite_devaddr (f : List Byte) (s : State) :
    (s.afterWrite f).devaddr = s.devaddr := rfl
@[simp] theorem State.afterWrite_life (f : List Byte) (s : State) :
    (s.afterWrite f).life = s.life := rfl
@[simp] theorem State.afterWrite_columnOrder (f : List Byte) (s : State) :
    (s.afterWrite f).columnOrder = s.columnOrder := rfl
@[simp] theorem State.afterWrite_pending (f : List Byte) (s : State) :
    (s.afterWrite f).pending = s.pending := rfl
@[simp] theorem State.afterWrite_results (f : List Byte) (s : State) :
    (s.afterWrite f).results = s.results.tail := rfl
@[simp] theorem State.afterWrite_trace (f : List Byte) (s : State) :
    (s.afterWrite f).trace = s.trace ++ [.write s.devaddr f s.nextResult] := rfl
@[simp] theorem State.afterWrite_draws (f : List Byte) (s : State) :
    (s.afterWrite f).draws = s.draws + 1 := rfl
@[simp] theorem State.afterWrite_chip (f : List Byte) (s : State) :
    (s.afterWrite f).chip = s.chip.receive s.draws s.devaddr (s.deliveredBytes f) := rfl

/-! `State.unspecify` -/

@[simp] theorem State.unspecify_rows (s : State) :
    s.unspecify.rows = forRows (fun r _ => Config.unspecifiedRow s.draws r.val) s.rows := rfl
@[simp] theorem State.unspecify_on (s : State) :
    s.unspecify.on = Config.unspecifiedOn s.draws := rfl
@[simp] theorem State.unspecify_blink (s : State) :
    s.unspecify.blink = Config.unspecifiedBlink s.draws := rfl
@[simp] theorem State.unspecify_bright (s : State) :
    s.unspecify.bright = Config.unspecifiedBright s.draws := rfl
@[simp] theorem State.unspecify_devaddr (s : State) : s.unspecify.devaddr = s.devaddr := rfl
@[simp] theorem State.unspecify_life (s : State) : s.unspecify.life = s.life := rfl
@[simp] theorem State.unspecify_columnOrder (s : State) :
    s.unspecify.columnOrder = s.columnOrder := rfl
@[simp] theorem State.unspecify_pending (s : State) : s.unspecify.pending = s.pending := rfl
@[simp] theorem State.unspecify_results (s : State) : s.unspecify.results = s.results := rfl
@[simp] theorem State.unspecify_trace (s : State) : s.unspecify.trace = s.trace := rfl
@[simp] theorem State.unspecify_draws (s : State) : s.unspecify.draws = s.draws + 1 := rfl
@[simp] theorem State.unspecify_chip (s : State) : s.unspecify.chip = s.chip := rfl

/-! `State.unspecifiedTraffic` -/

@[simp] theorem State.unspecifiedTraffic_rows (s : State) :
    s.unspecifiedTraffic.rows = s.rows := rfl
@[simp] theorem State.unspecifiedTraffic_on (s : State) : s.unspecifiedTraffic.on = s.on := rfl
@[simp] theorem State.unspecifiedTraffic_blink (s : State) :
    s.unspecifiedTraffic.blink = s.blink := rfl
@[simp] theorem State.unspecifiedTraffic_bright (s : State) :
    s.unspecifiedTraffic.bright = s.bright := rfl
@[simp] theorem State.unspecifiedTraffic_devaddr (s : State) :
    s.unspecifiedTraffic.devaddr = s.devaddr := rfl
@[simp] theorem State.unspecifiedTraffic_life (s : State) :
    s.unspecifiedTraffic.life = s.life := rfl
@[simp] theorem State.unspecifiedTraffic_columnOrder (s : State) :
    s.unspecifiedTraffic.columnOrder = s.columnOrder := rfl
@[simp] theorem State.unspecifiedTraffic_pending (s : State) :
    s.unspecifiedTraffic.pending = s.pending := rfl
@[simp] theorem State.unspecifiedTraffic_results (s : State) :
    s.unspecifiedTraffic.results = s.results := rfl
@[simp] theorem State.unspecifiedTraffic_trace (s : State) :
    s.unspecifiedTraffic.trace = s.trace ++ (Config.faultTraffic s.draws).map (fun w => .write s.devaddr w.1 w.2) := rfl
@[simp] theorem State.unspecifiedTraffic_draws (s : State) :
    s.unspecifiedTraffic.draws = s.draws + 1 := rfl
@[simp] theorem State.unspecifiedTraffic_chip (s : State) :
    s.unspecifiedTraffic.chip =
      if s.devaddr = s.chip.addr then Chip.unspecified s.draws s.chip else s.chip := rfl

/-! The next Transport result and the delivered bytes depend on no register. -/

@[simp] theorem State.setRows_nextResult (m : Memory) (s : State) :
    (s.setRows m).nextResult = s.nextResult := rfl
@[simp] theorem State.setRows_deliveredBytes (m : Memory) (f' : List Byte) (s : State) :
    (s.setRows m).deliveredBytes f' = s.deliveredBytes f' := rfl
@[simp] theorem State.setOn_nextResult (b : Bool) (s : State) :
    (s.setOn b).nextResult = s.nextResult := rfl
@[simp] theorem State.setOn_deliveredBytes (b : Bool) (f' : List Byte) (s : State) :
    (s.setOn b).deliveredBytes f' = s.deliveredBytes f' := rfl
@[simp] theorem State.setBlink_nextResult (m : BitVec 2) (s : State) :
    (s.setBlink m).nextResult = s.nextResult := rfl
@[simp] theorem State.setBlink_deliveredBytes (m : BitVec 2) (f' : List Byte) (s : State) :
    (s.setBlink m).deliveredBytes f' = s.deliveredBytes f' := rfl
@[simp] theorem State.setBright_nextResult (v : BitVec 4) (s : State) :
    (s.setBright v).nextResult = s.nextResult := rfl
@[simp] theorem State.setBright_deliveredBytes (v : BitVec 4) (f' : List Byte) (s : State) :
    (s.setBright v).deliveredBytes f' = s.deliveredBytes f' := rfl
@[simp] theorem State.setDevaddr_nextResult (a : DeviceAddress) (s : State) :
    (s.setDevaddr a).nextResult = s.nextResult := rfl
@[simp] theorem State.setDevaddr_deliveredBytes (a : DeviceAddress) (f' : List Byte) (s : State) :
    (s.setDevaddr a).deliveredBytes f' = s.deliveredBytes f' := rfl
@[simp] theorem State.setLife_nextResult (l : Life) (s : State) :
    (s.setLife l).nextResult = s.nextResult := rfl
@[simp] theorem State.setLife_deliveredBytes (l : Life) (f' : List Byte) (s : State) :
    (s.setLife l).deliveredBytes f' = s.deliveredBytes f' := rfl
@[simp] theorem State.takeAction_nextResult (s : State) :
    s.takeAction.nextResult = s.nextResult := rfl
@[simp] theorem State.takeAction_deliveredBytes (f' : List Byte) (s : State) :
    s.takeAction.deliveredBytes f' = s.deliveredBytes f' := rfl
@[simp] theorem State.respond_nextResult (st : Status) (s : State) :
    (s.respond st).nextResult = s.nextResult := rfl
@[simp] theorem State.respond_deliveredBytes (st : Status) (f' : List Byte) (s : State) :
    (s.respond st).deliveredBytes f' = s.deliveredBytes f' := rfl

/-- A scripted result is the next one (D23). -/
theorem State.nextResult_of_cons {s : State} {r : TransportResult} {rs : List TransportResult}
    (h : s.results = r :: rs) : s.nextResult = r := by
  simp [State.nextResult, h]

/-- An `ok` write delivers its whole frame. -/
theorem State.deliveredBytes_of_ok {s : State} (f : List Byte) (h : s.nextResult = .ok) :
    s.deliveredBytes f = f := by
  simp [State.deliveredBytes, h]

/-- A write delivers a prefix of its frame, whatever its result (R152, D23). -/
theorem State.deliveredBytes_prefix (f : List Byte) (s : State) : s.deliveredBytes f <+: f := by
  unfold State.deliveredBytes
  split
  · exact List.prefix_rfl
  · exact List.take_prefix _ _

/-! `State.afterFault` -/

@[simp] theorem State.afterFault_life (s : State) : s.afterFault.life = .faulted := rfl
@[simp] theorem State.afterFault_devaddr (s : State) : s.afterFault.devaddr = s.devaddr := rfl
@[simp] theorem State.afterFault_columnOrder (s : State) :
    s.afterFault.columnOrder = s.columnOrder := rfl
@[simp] theorem State.afterFault_pending (s : State) : s.afterFault.pending = s.pending := rfl
@[simp] theorem State.afterFault_results (s : State) : s.afterFault.results = s.results := rfl

@[simp] theorem State.afterFault_chip (s : State) : s.afterFault.chip = s.unspecifiedTraffic.chip := rfl

end Sys2Proof.Machine
end

