-- ==== Sys2Proof/Laws/Ops.lean ====
section
/-! SUPPORT. One lemma for each shared operation, saying once what it can do, and the inversion of `exec`
and `step`: what a next state can be. -/

namespace Sys2Proof.Machine

open Sys2Proof

/-- The state after one emission and its response. -/
def State.emitted (frame : State → List Byte) (s : State) : State :=
  (s.afterWrite (frame s)).respond (statusOf s.nextResult)

@[simp] theorem State.emitted_rows (frame : State → List Byte) (s : State) :
    (s.emitted frame).rows = s.rows := rfl
@[simp] theorem State.emitted_on (frame : State → List Byte) (s : State) :
    (s.emitted frame).on = s.on := rfl
@[simp] theorem State.emitted_blink (frame : State → List Byte) (s : State) :
    (s.emitted frame).blink = s.blink := rfl
@[simp] theorem State.emitted_bright (frame : State → List Byte) (s : State) :
    (s.emitted frame).bright = s.bright := rfl
@[simp] theorem State.emitted_devaddr (frame : State → List Byte) (s : State) :
    (s.emitted frame).devaddr = s.devaddr := rfl
@[simp] theorem State.emitted_life (frame : State → List Byte) (s : State) :
    (s.emitted frame).life = s.life := rfl
@[simp] theorem State.emitted_columnOrder (frame : State → List Byte) (s : State) :
    (s.emitted frame).columnOrder = s.columnOrder := rfl
@[simp] theorem State.emitted_pending (frame : State → List Byte) (s : State) :
    (s.emitted frame).pending = s.pending := rfl
@[simp] theorem State.emitted_results (frame : State → List Byte) (s : State) :
    (s.emitted frame).results = s.results.tail := rfl
@[simp] theorem State.emitted_draws (frame : State → List Byte) (s : State) :
    (s.emitted frame).draws = s.draws + 1 := rfl
@[simp] theorem State.emitted_chip (frame : State → List Byte) (s : State) :
    (s.emitted frame).chip = s.chip.receive s.draws s.devaddr (s.deliveredBytes (frame s)) := rfl
@[simp] theorem State.emitted_trace (frame : State → List Byte) (s : State) :
    (s.emitted frame).trace =
      s.trace ++ [.write s.devaddr (frame s) s.nextResult] ++ [.response (statusOf s.nextResult)] := rfl

theorem emitAndComplete_eq (frame : State → List Byte) (s : State) :
    emitAndComplete frame s = .next (s.emitted frame) := rfl

theorem complete_eq (st : Status) (s : State) : complete st s = .next (s.respond st) := rfl

theorem whenReady_of_ready {s : State} (h : s.life = .ready) (run : StepOutcome) :
    whenReady s run = run := by
  simp [whenReady, h]

theorem whenReady_of_not_ready {s : State} (h : s.life ≠ .ready) (run : StepOutcome) :
    whenReady s run = .refused (.notReady s.life) := by
  simp [whenReady, h]

theorem whenReady_next {s t : State} {run : StepOutcome} (h : whenReady s run = .next t) :
    s.life = .ready ∧ run = .next t := by
  unfold whenReady at h
  split at h
  · next hl => exact ⟨hl, h⟩
  · cases h

theorem coordinate?_of_lt {n : Nat} (h : n < 8) : coordinate? n = some ⟨n, h⟩ := by
  simp [coordinate?, h]

theorem coordinate?_of_ge {n : Nat} (h : 8 ≤ n) : coordinate? n = none := by
  simp [coordinate?, Nat.not_lt.2 h]

theorem withCoordinate_of_lt {i : Instr} {n : Nat} {s : State} {run : Fin 8 → StepOutcome}
    (h : n < 8) : withCoordinate i n s run = run ⟨n, h⟩ := by
  simp [withCoordinate, coordinate?_of_lt h]

theorem withCoordinate_of_ge {i : Instr} {n : Nat} {s : State} {run : Fin 8 → StepOutcome}
    (h : 8 ≤ n) : withCoordinate i n s run = raiseCoordinateUndefined i s := by
  simp [withCoordinate, coordinate?_of_ge h]

theorem withCoordinate_next {i : Instr} {n : Nat} {s t : State} {run : Fin 8 → StepOutcome}
    (h : withCoordinate i n s run = .next t) : ∃ hn : n < 8, run ⟨n, hn⟩ = .next t := by
  rcases Nat.lt_or_ge n 8 with hn | hn
  · rw [withCoordinate_of_lt hn] at h; exact ⟨hn, h⟩
  · rw [withCoordinate_of_ge hn] at h; cases h

theorem illegalCommand_of_ready {s : State} (h : s.life = .ready) :
    illegalCommand s = .next (s.respond .illegalCommand) := whenReady_of_ready h _

/-- Everything a completed command can be: a rejection, or state writes and at most one frame. -/
inductive Performed (s : State) : State → Prop where
  | rejected (st : Status) (h : st = .illegalCommand ∨ st = .invalidArgument) :
      Performed s (s.respond st)
  | power (b : Bool) : Performed s ((s.setOn b).emitted powerFrame)
  | brightness (v : BitVec 4) : Performed s ((s.setBright v).emitted brightnessFrame)
  | blinkShown (m : BitVec 2) (h : s.on = true) : Performed s ((s.setBlink m).emitted powerFrame)
  | blinkLatched (m : BitVec 2) (h : s.on = false) : Performed s ((s.setBlink m).respond .ok)
  | row (r : Fin 8) (m : Memory) (hwf : s.rows.wf → m.wf)
      (h : ∀ a, a ≠ r.val → m.read a = s.rows.read a) :
      Performed s ((s.setRows m).emitted (rowFrame r))
  | buffer (m : Memory) (hwf : s.rows.wf → m.wf) : Performed s ((s.setRows m).emitted fullFrame)

/-- What a command can do: if `exec` answers a next state, the block was READY and the state is one of
`Performed`. -/
theorem exec_next {i : Instr} {s t : State} (h : exec i s = .next t) :
    s.life = .ready ∧ Performed s t := by
  cases i with
  | on => obtain ⟨hl, h⟩ := whenReady_next h; cases h; exact ⟨hl, .power true⟩
  | off => obtain ⟨hl, h⟩ := whenReady_next h; cases h; exact ⟨hl, .power false⟩
  | setBrightness v =>
    obtain ⟨hl, h⟩ := whenReady_next h
    refine ⟨hl, ?_⟩
    split at h
    · cases h; exact .rejected _ (.inr rfl)
    · cases h; exact .brightness _
  | setBlinking m =>
    obtain ⟨hl, h⟩ := whenReady_next h
    refine ⟨hl, ?_⟩
    split at h
    · cases h; exact .rejected _ (.inr rfl)
    · split at h
      · next hon => cases h; exact .blinkShown _ hon
      · next hon => cases h; exact .blinkLatched _ (by simpa using hon)
  | set bmp =>
    obtain ⟨hl, h⟩ := whenReady_next h
    cases h; exact ⟨hl, .buffer _ fun w => fbReplaceAll_wf w bmp⟩
  | clear =>
    obtain ⟨hl, h⟩ := whenReady_next h
    cases h; exact ⟨hl, .buffer _ fbZeroAll_wf⟩
  | setRow r v =>
    obtain ⟨hl, h⟩ := whenReady_next h
    obtain ⟨hk, h⟩ := withCoordinate_next h
    cases h
    exact ⟨hl, .row _ _ (fun w => fbSetRow_wf w _ v) fun a ha => by rw [read_fbSetRow, if_neg ha]⟩
  | clearRow r =>
    obtain ⟨hl, h⟩ := whenReady_next h
    obtain ⟨hk, h⟩ := withCoordinate_next h
    cases h
    exact ⟨hl, .row _ _ (fun w => fbClearRow_wf w _) fun a ha => by rw [read_fbClearRow, if_neg ha]⟩
  | setPixel r c =>
    obtain ⟨hl, h⟩ := whenReady_next h
    obtain ⟨hk, h⟩ := withCoordinate_next h
    obtain ⟨hj, h⟩ := withCoordinate_next h
    cases h
    exact ⟨hl, .row _ _ (fun w => fbSetPixel_wf w _ _) fun a ha => by
      rw [read_fbSetPixel, if_neg ha]⟩
  | clearPixel r c =>
    obtain ⟨hl, h⟩ := whenReady_next h
    obtain ⟨hk, h⟩ := withCoordinate_next h
    obtain ⟨hj, h⟩ := withCoordinate_next h
    cases h
    exact ⟨hl, .row _ _ (fun w => fbClearPixel_wf w _ _) fun a ha => by
      rw [read_fbClearPixel, if_neg ha]⟩
  | setColumn c v =>
    obtain ⟨hl, h⟩ := whenReady_next h
    obtain ⟨hk, h⟩ := withCoordinate_next h
    cases h; exact ⟨hl, .buffer _ fun w => fbSetColumn_wf _ w _ v⟩
  | clearColumn c =>
    obtain ⟨hl, h⟩ := whenReady_next h
    obtain ⟨hk, h⟩ := withCoordinate_next h
    cases h; exact ⟨hl, .buffer _ fun w => fbClearColumn_wf w _⟩
  | reservedOp0 a d =>
    obtain ⟨hl, h⟩ := whenReady_next h; cases h; exact ⟨hl, .rejected _ (.inl rfl)⟩
  | reservedOpD a d =>
    obtain ⟨hl, h⟩ := whenReady_next h; cases h; exact ⟨hl, .rejected _ (.inl rfl)⟩
  | reservedOpE a d =>
    obtain ⟨hl, h⟩ := whenReady_next h; cases h; exact ⟨hl, .rejected _ (.inl rfl)⟩
  | reservedOpF a d =>
    obtain ⟨hl, h⟩ := whenReady_next h; cases h; exact ⟨hl, .rejected _ (.inl rfl)⟩

/-- A reset write goes on when its result is `ok` and ends the reset when it is `fail` (R282). -/
theorem resetWrite_eq (frame : State → List Byte) (s : State) (k : State → StepOutcome) :
    resetWrite frame s k =
      match s.nextResult with
      | .ok => k (s.afterWrite (frame s))
      | .fail => resetFailed (s.afterWrite (frame s)) := by
  unfold resetWrite emit
  cases s.nextResult <;> rfl

/-- The four states of the reset sequence before its writes (R280). -/
def State.resetW1 (a : DeviceAddress) (s : State) : State := s.setDevaddr a
def State.resetW2 (a : DeviceAddress) (b : BitVec 4) (s : State) : State :=
  ((s.resetW1 a).afterWrite (oscFrame (s.resetW1 a))).setBright b
def State.resetW3 (a : DeviceAddress) (b : BitVec 4) (s : State) : State :=
  let s2 := (s.resetW2 a b).afterWrite (brightnessFrame (s.resetW2 a b))
  s2.setRows (fbZeroAll s2.rows)
def State.resetW4 (a : DeviceAddress) (b : BitVec 4) (s : State) : State :=
  (((s.resetW3 a b).afterWrite (fullFrame (s.resetW3 a b))).setBlink 0).setOn true
def State.resetDone (a : DeviceAddress) (b : BitVec 4) (s : State) : State :=
  (((s.resetW4 a b).afterWrite (powerFrame (s.resetW4 a b))).setLife .ready).respond .ok

/-- The state a reset failing at `s` ends in (R282). -/
def State.resetEnded (frame : State → List Byte) (s : State) : State :=
  (((s.afterWrite (frame s)).unspecify).setLife .failed).respond .transportFailure

/-- Everything a reset with legal parameters can do: it ends at its first failing write, or completes. -/
theorem resetBlock_eq (a : DeviceAddress) (b : BitVec 4) (s : State) :
    resetBlock a b s = .next (
      match (s.resetW1 a).nextResult with
      | .fail => (s.resetW1 a).resetEnded oscFrame
      | .ok =>
        match (s.resetW2 a b).nextResult with
        | .fail => (s.resetW2 a b).resetEnded brightnessFrame
        | .ok =>
          match (s.resetW3 a b).nextResult with
          | .fail => (s.resetW3 a b).resetEnded fullFrame
          | .ok =>
            match (s.resetW4 a b).nextResult with
            | .fail => (s.resetW4 a b).resetEnded powerFrame
            | .ok => s.resetDone a b) := by
  unfold resetBlock
  rw [resetWrite_eq]
  change (match (s.resetW1 a).nextResult with | .ok => _ | .fail => _) = _
  cases (s.resetW1 a).nextResult with
  | fail => rfl
  | ok =>
    dsimp only
    rw [resetWrite_eq]
    change (match (s.resetW2 a b).nextResult with | .ok => _ | .fail => _) = _
    cases (s.resetW2 a b).nextResult with
    | fail => rfl
    | ok =>
      dsimp only
      rw [resetWrite_eq]
      change (match (s.resetW3 a b).nextResult with | .ok => _ | .fail => _) = _
      cases (s.resetW3 a b).nextResult with
      | fail => rfl
      | ok =>
        dsimp only
        rw [resetWrite_eq]
        change (match (s.resetW4 a b).nextResult with | .ok => _ | .fail => _) = _
        cases (s.resetW4 a b).nextResult with
        | fail => rfl
        | ok => rfl

/-- A reset transaction that answers a next state had legal parameters and ran the sequence. -/
theorem resetTransaction_next {address : Option Nat} {brightness : Nat} {s t : State}
    (h : resetTransaction address brightness s = .next t) :
    ∃ a b, resetBlock a b s = .next t := by
  unfold resetTransaction at h
  dsimp only at h
  split at h
  · cases h
  · split at h
    · cases h
    · exact ⟨_, _, h⟩

/-- What a step can do: nothing without a pending action; else the action's transaction. -/
theorem step_next {s t : State} (h : step s = .next t) :
    (s.pending = [] ∧ t = s) ∨
    (s.life = .ready ∧ Performed s.takeAction t) ∨
    (∃ a b, resetBlock a b s.takeAction = .next t) := by
  unfold step transact at h
  split at h
  · next hp => cases h; exact .inl ⟨hp, rfl⟩
  · next act rest hp =>
    cases act with
    | command w bmp =>
      right; left
      unfold presentAction presentCommand at h
      dsimp only at h
      split at h
      · exact exec_next h
      · obtain ⟨hl, h⟩ := whenReady_next h
        cases h; exact ⟨hl, .rejected _ (.inl rfl)⟩
    | reset a b => right; right; exact resetTransaction_next h
    | overlap => cases h

end Sys2Proof.Machine
end

