-- ==== Sys2Proof/Laws/Outcome.lean ====
section
/-! SUPPORT. What any instruction answers in READY (43_controller_commands.md R170): one of five outcomes,
each with the checks that lead to it. -/

namespace Sys2Proof.Machine

open Sys2Proof

/-- The two states agree on everything an emission reads besides its frame. -/
structure SamePorts (s s' : State) : Prop where
  trace : s'.trace = s.trace
  results : s'.results = s.results
  draws : s'.draws = s.draws
  devaddr : s'.devaddr = s.devaddr
  life : s'.life = s.life
  columnOrder : s'.columnOrder = s.columnOrder
  pending : s'.pending = s.pending
  chip : s'.chip = s.chip

theorem samePorts_setRows (m : Memory) (s : State) : SamePorts s (s.setRows m) :=
  ⟨rfl, rfl, rfl, rfl, rfl, rfl, rfl, rfl⟩
theorem samePorts_setOn (b : Bool) (s : State) : SamePorts s (s.setOn b) :=
  ⟨rfl, rfl, rfl, rfl, rfl, rfl, rfl, rfl⟩
theorem samePorts_setBlink (m : BitVec 2) (s : State) : SamePorts s (s.setBlink m) :=
  ⟨rfl, rfl, rfl, rfl, rfl, rfl, rfl, rfl⟩
theorem samePorts_setBright (v : BitVec 4) (s : State) : SamePorts s (s.setBright v) :=
  ⟨rfl, rfl, rfl, rfl, rfl, rfl, rfl, rfl⟩

/-- The outcome of an instruction in READY, by the checks it passes. -/
inductive ReadyOutcome (i : Instr) (s : State) : StepOutcome → Prop where
  | illegal (h : i.notReserved = false) : ReadyOutcome i s (.next (s.respond .illegalCommand))
  | fault (h0 : i.notReserved = true) (h : i.coordinatesLegal = false) :
      ReadyOutcome i s (raiseCoordinateUndefined i s)
  | invalid (h0 : i.notReserved = true) (h1 : i.coordinatesLegal = true) (h : i.valueLegal = false) :
      ReadyOutcome i s (.next (s.respond .invalidArgument))
  | latched (m : BitVec 8) (b : BitVec 2) (hi : i = .setBlinking m) (hon : s.on = false)
      (hw : i.WellFormed) : ReadyOutcome i s (.next ((s.setBlink b).respond .ok))
  | emitted (s' : State) (frame : State → List Byte) (hw : i.WellFormed)
      (hn : ¬((∃ m, i = .setBlinking m) ∧ s.on = false)) (hp : SamePorts s s') :
      ReadyOutcome i s (.next (s'.emitted frame))

/-- A row or column command: the fault, or one emission from the written rows. -/
theorem readyOutcome_withCoordinate {i : Instr} {n : Nat} {s : State} {run : Fin 8 → StepOutcome}
    (h0 : i.notReserved = true) (hc : i.coordinatesLegal = decide (n < 8)) (hv : i.valueLegal = true)
    (hb : ∀ m, i ≠ .setBlinking m)
    (hrun : ∀ k, ∃ m frame, run k = .next ((s.setRows m).emitted frame)) :
    ReadyOutcome i s (withCoordinate i n s run) := by
  rcases Nat.lt_or_ge n 8 with h | h
  · obtain ⟨m, frame, e⟩ := hrun ⟨n, h⟩
    rw [withCoordinate_of_lt h, e]
    exact .emitted _ _ ⟨h0, by simp [hc, h], hv⟩ (by simp [hb]) (samePorts_setRows _ _)
  · rw [withCoordinate_of_ge h]
    exact .fault h0 (by simp [hc, Nat.not_lt.2 h])

theorem exec_ready (i : Instr) {s : State} (hl : s.life = .ready) : ReadyOutcome i s (exec i s) := by
  cases i with
  | on =>
    rw [show exec .on s = _ from whenReady_of_ready hl _]
    exact .emitted _ _ (by decide) (by simp) (samePorts_setOn true s)
  | off =>
    rw [show exec .off s = _ from whenReady_of_ready hl _]
    exact .emitted _ _ (by decide) (by simp) (samePorts_setOn false s)
  | setBrightness v =>
    rw [show exec (.setBrightness v) s = _ from whenReady_of_ready hl _]
    by_cases h : v.toNat ≤ 15
    · simp only [brightness?, if_pos h]
      exact .emitted _ _ ⟨rfl, rfl, by simp [Instr.valueLegal, h]⟩ (by simp) (samePorts_setBright _ s)
    · simp only [brightness?, if_neg h]
      exact .invalid rfl rfl (by simp [Instr.valueLegal, h])
  | setBlinking m =>
    rw [show exec (.setBlinking m) s = _ from whenReady_of_ready hl _]
    by_cases h : m.toNat ≤ 3
    · have hw : (Instr.setBlinking m).WellFormed := ⟨rfl, rfl, by simp [Instr.valueLegal, h]⟩
      simp only [blinkMode?, if_pos h]
      cases hon : s.on with
      | true => exact .emitted _ _ hw (by simp [hon]) (samePorts_setBlink _ s)
      | false => exact .latched m _ rfl hon hw
    · simp only [blinkMode?, if_neg h]
      exact .invalid rfl rfl (by simp [Instr.valueLegal, h])
  | set bmp =>
    rw [show exec (.set bmp) s = _ from whenReady_of_ready hl _]
    exact .emitted _ _ ⟨rfl, rfl, rfl⟩ (by simp) (samePorts_setRows _ s)
  | clear =>
    rw [show exec .clear s = _ from whenReady_of_ready hl _]
    exact .emitted _ _ ⟨rfl, rfl, rfl⟩ (by simp) (samePorts_setRows _ s)
  | setRow r v =>
    rw [show exec (.setRow r v) s = _ from whenReady_of_ready hl _]
    exact readyOutcome_withCoordinate rfl rfl rfl (by simp) fun k => ⟨_, _, rfl⟩
  | clearRow r =>
    rw [show exec (.clearRow r) s = _ from whenReady_of_ready hl _]
    exact readyOutcome_withCoordinate rfl rfl rfl (by simp) fun k => ⟨_, _, rfl⟩
  | setPixel r c =>
    rw [show exec (.setPixel r c) s = _ from whenReady_of_ready hl _]
    rcases Nat.lt_or_ge r.toNat 8 with h | h
    · rw [withCoordinate_of_lt h]
      exact readyOutcome_withCoordinate rfl (by simp [Instr.coordinatesLegal, h]) rfl (by simp)
        fun k => ⟨_, _, rfl⟩
    · rw [withCoordinate_of_ge h]
      exact .fault rfl (by simp [Instr.coordinatesLegal, Nat.not_lt.2 h])
  | clearPixel r c =>
    rw [show exec (.clearPixel r c) s = _ from whenReady_of_ready hl _]
    rcases Nat.lt_or_ge r.toNat 8 with h | h
    · rw [withCoordinate_of_lt h]
      exact readyOutcome_withCoordinate rfl (by simp [Instr.coordinatesLegal, h]) rfl (by simp)
        fun k => ⟨_, _, rfl⟩
    · rw [withCoordinate_of_ge h]
      exact .fault rfl (by simp [Instr.coordinatesLegal, Nat.not_lt.2 h])
  | setColumn c v =>
    rw [show exec (.setColumn c v) s = _ from whenReady_of_ready hl _]
    exact readyOutcome_withCoordinate rfl rfl rfl (by simp) fun k => ⟨_, _, rfl⟩
  | clearColumn c =>
    rw [show exec (.clearColumn c) s = _ from whenReady_of_ready hl _]
    exact readyOutcome_withCoordinate rfl rfl rfl (by simp) fun k => ⟨_, _, rfl⟩
  | reservedOp0 a d =>
    rw [show exec (.reservedOp0 a d) s = _ from whenReady_of_ready hl _]; exact .illegal rfl
  | reservedOpD a d =>
    rw [show exec (.reservedOpD a d) s = _ from whenReady_of_ready hl _]; exact .illegal rfl
  | reservedOpE a d =>
    rw [show exec (.reservedOpE a d) s = _ from whenReady_of_ready hl _]; exact .illegal rfl
  | reservedOpF a d =>
    rw [show exec (.reservedOpF a d) s = _ from whenReady_of_ready hl _]; exact .illegal rfl

/-- Outside READY every instruction is refused (60_exceptions.md R252). -/
theorem exec_not_ready (i : Instr) {s : State} (h : s.life ≠ .ready) :
    exec i s = .refused (.notReady s.life) := by
  cases i <;> exact whenReady_of_not_ready h _

/-- The only fault of an instruction is the coordinate fault, and it leaves `State.afterFault`. -/
theorem exec_fault {i : Instr} {s t : State} {w : CommandWord}
    (h : exec i s = .fault (.coordinateUndefined w t)) : t = s.afterFault := by
  by_cases hl : s.life = .ready
  · have hr := exec_ready i hl
    generalize ho : exec i s = o at hr
    rw [h] at ho
    cases hr <;> cases ho
    rfl
  · rw [exec_not_ready i hl] at h; cases h

/-- What a faulting step leaves: the after-state of the block with the transaction taken from the port. -/
theorem step_fault {s t : State} {w : CommandWord}
    (h : step s = .fault (.coordinateUndefined w t)) : t = s.takeAction.afterFault := by
  unfold step transact at h
  split at h
  · cases h
  · next act rest hp =>
    cases act with
    | overlap => cases h
    | reset a b =>
      unfold presentAction resetTransaction at h
      dsimp only at h
      split at h
      · cases h
      · split at h
        · cases h
        · rw [resetBlock_eq] at h; cases h
    | command word bmp =>
      unfold presentAction presentCommand at h
      dsimp only at h
      split at h
      · exact exec_fault h
      · unfold illegalCommand whenReady at h
        split at h <;> cases h

/-- A fault keeps the display RAM canonical. -/
theorem State.afterFault_chip_wf {s : State} (h : s.chip.wf) : s.afterFault.chip.wf := by
  rw [State.afterFault_chip, State.unspecifiedTraffic_chip]
  split
  · exact Chip.unspecified_wf _ _
  · exact h

end Sys2Proof.Machine
end

