-- ==== Sys2Proof/Laws/PerInstr.lean ====
section
/-! SUPPORT. One statement for every instruction as syntax: its word has the fixed bits of its row of the
opcode map (30_encoding.md R73), one lemma per constructor. -/

namespace Sys2Proof.Laws

open Sys2Proof

/-- The fixed bits of a packed word: its fields under the mask's fields. -/
theorem packed_and_mask (o a o' a' : BitVec 4) (d d' : BitVec 8) {mask pattern : CommandWord}
    (hm : mask = packWord o' a' d') (hp : pattern = packWord (o &&& o') (a &&& a') (d &&& d')) :
    packWord o a d &&& mask = pattern := by
  rw [hm, hp, packWord_and]

end Sys2Proof.Laws

namespace Sys2Proof.Laws.Pattern

open Sys2Proof

/-- The word of an instruction has the fixed bits of its row (R73). -/
def Statement (i : Instr) : Prop := encode i &&& i.mask = i.pattern

theorem on : Statement .on := by unfold Statement; decide
theorem off : Statement .off := by unfold Statement; decide
theorem set (b : BitVec 64) : Statement (.set b) :=
  packed_and_mask 0x5 0 0xF 0xF 0 0xFF rfl rfl
theorem clear : Statement .clear := by unfold Statement; decide
theorem setBrightness (v : BitVec 8) : Statement (.setBrightness v) :=
  packed_and_mask 0x3 0 0xF 0xF v 0x00 rfl (by simp [Instr.pattern, packWord])
theorem setBlinking (m : BitVec 8) : Statement (.setBlinking m) :=
  packed_and_mask 0x4 0 0xF 0xF m 0x00 rfl (by simp [Instr.pattern, packWord])
theorem setRow (r : BitVec 4) (v : BitVec 8) : Statement (.setRow r v) :=
  packed_and_mask 0x7 r 0xF 0x0 v 0x00 rfl (by simp [Instr.pattern, packWord])
theorem clearRow (r : BitVec 4) : Statement (.clearRow r) :=
  packed_and_mask 0x8 r 0xF 0x0 0 0xFF rfl (by simp [Instr.pattern, packWord])
theorem setPixel (r : BitVec 4) (c : BitVec 8) : Statement (.setPixel r c) :=
  packed_and_mask 0x9 r 0xF 0x0 c 0x00 rfl (by simp [Instr.pattern, packWord])
theorem clearPixel (r : BitVec 4) (c : BitVec 8) : Statement (.clearPixel r c) :=
  packed_and_mask 0xA r 0xF 0x0 c 0x00 rfl (by simp [Instr.pattern, packWord])
theorem setColumn (c : BitVec 4) (v : BitVec 8) : Statement (.setColumn c v) :=
  packed_and_mask 0xB c 0xF 0x0 v 0x00 rfl (by simp [Instr.pattern, packWord])
theorem clearColumn (c : BitVec 4) : Statement (.clearColumn c) :=
  packed_and_mask 0xC c 0xF 0x0 0 0xFF rfl (by simp [Instr.pattern, packWord])
theorem reservedOp0 (a : BitVec 4) (d : BitVec 8) : Statement (.reservedOp0 a d) :=
  packed_and_mask 0x0 a 0xF 0x0 d 0x00 rfl (by simp [Instr.pattern, packWord])
theorem reservedOpD (a : BitVec 4) (d : BitVec 8) : Statement (.reservedOpD a d) :=
  packed_and_mask 0xD a 0xF 0x0 d 0x00 rfl (by simp [Instr.pattern, packWord])
theorem reservedOpE (a : BitVec 4) (d : BitVec 8) : Statement (.reservedOpE a d) :=
  packed_and_mask 0xE a 0xF 0x0 d 0x00 rfl (by simp [Instr.pattern, packWord])
theorem reservedOpF (a : BitVec 4) (d : BitVec 8) : Statement (.reservedOpF a d) :=
  packed_and_mask 0xF a 0xF 0x0 d 0x00 rfl (by simp [Instr.pattern, packWord])

end Sys2Proof.Laws.Pattern
end

