-- ==== Sys2Proof/Laws/Trace.lean ====
section
/-! SUPPORT. The last write of a trace that grows by one event. -/

namespace Sys2Proof.Machine

open Sys2Proof

@[simp] theorem lastWrite_response (p : List Byte → Bool) (t : List Event) (st : Status) :
    lastWrite p (t ++ [.response st]) = lastWrite p t := by
  simp [lastWrite]

@[simp] theorem lastWrite_write (p : List Byte → Bool) (t : List Event) (a : DeviceAddress)
    (bytes : List Byte) (res : TransportResult) :
    lastWrite p (t ++ [.write a bytes res]) =
      if p bytes then some (bytes, res) else lastWrite p t := by
  simp [lastWrite]

/-- The next result is the result of the first coming write. -/
theorem State.nextResult_eq_resultAt (s : State) : s.nextResult = s.resultAt 0 := by
  unfold State.nextResult State.resultAt
  cases s.results <;> rfl

/-- A write uses up one result. -/
theorem State.afterWrite_resultAt (f : List Byte) (s : State) (k : Nat) :
    (s.afterWrite f).resultAt k = s.resultAt (k + 1) := by
  unfold State.resultAt State.afterWrite
  cases s.results with
  | nil => simp [Nat.add_comm, Nat.add_left_comm]
  | cons r rs => simp [Nat.add_assoc, Nat.add_comm 1 k]

/-- The status of an `Emit` result, in the terms of the statements. -/
theorem statusOf_eq (r : TransportResult) : statusOf r = statusFor r := by
  cases r <;> rfl

end Sys2Proof.Machine
end

