-- ==== Sys2Proof/Tests/Slice0.lean ====
section
/-! SUPPORT. Tests. Expected values are those of 95_test_vectors.md (L2.1 to L2.7), computed there by
hand; a few are computed the same way from the rule named. Then, for every statement with hypotheses, a
named witness that they can be met. -/

namespace Sys2Proof.Tests

open Sys2Proof Sys2Proof.Machine

/-! ### Helpers: a READY block with a known content, and one command pressed on it -/

/-- READY, on, blink 0, brightness 15, nothing in the trace, and the next writes fixed as `rs`. -/
def bench (rows : Memory) (rs : List TransportResult) : State :=
  { State.reset with rows := rows, bright := 15, trace := [], results := rs }

/-- The same block with the display off. -/
def benchOff (rows : Memory) (rs : List TransportResult) : State := { bench rows rs with on := false }

/-- Rows of eight bytes, row 0 first. -/
def rowsOf (bs : List Byte) : Memory :=
  (bs.zip (List.range 8)).foldl (fun m x => m.write x.2 x.1) []

/-- `s` with one command word presented. -/
def present (w : CommandWord) (b : Bitmap) (s : State) : State := { s with pending := [.command w b] }

/-- One view of the next state of a step. -/
def next? {α : Type} (f : State → α) (o : StepOutcome) : Option α :=
  match o with
  | .next t => some (f t)
  | _ => none

/-- The trace after a step. -/
def traceOf (o : StepOutcome) : Option (List Event) := next? (fun t => t.trace) o

/-- The eight rows after a step. -/
def rowsAfter (o : StepOutcome) : Option (List Byte) :=
  next? (fun t => (List.range 8).map t.rows.read) o

/-- The control registers after a step. -/
def controlAfter (o : StepOutcome) : Option (Bool × BitVec 2 × BitVec 4) :=
  next? (fun t => (t.on, t.blink, t.bright)) o

/-- The word a fault records. -/
def faultWord (o : StepOutcome) : Option CommandWord :=
  match o with
  | .fault (.coordinateUndefined w _) => some w
  | _ => none

/-- The refusal of a step. -/
def refusal (o : StepOutcome) : Option Refusal :=
  match o with
  | .refused r => some r
  | _ => none

/-- A frame written to 0x70 with result `ok`, and the response OK. -/
def okFrame (f : List Byte) : Option (List Event) := some [.write 0x70 f .ok, .response .ok]

/-! ### Well-formedness: each check refuses an ill-formed term -/

theorem test_wf_row : ¬(Instr.setRow 8 0x12).WellFormed ∧ ¬(Instr.clearRow 15).WellFormed ∧
    (Instr.setRow 7 0xFF).WellFormed ∧ (Instr.clearRow 0).WellFormed := by decide
theorem test_wf_pixel : ¬(Instr.setPixel 8 0).WellFormed ∧ ¬(Instr.setPixel 7 8).WellFormed ∧
    ¬(Instr.clearPixel 0 128).WellFormed ∧ (Instr.clearPixel 7 7).WellFormed := by decide
theorem test_wf_column : ¬(Instr.setColumn 8 0).WellFormed ∧ ¬(Instr.clearColumn 8).WellFormed ∧
    (Instr.setColumn 7 0xF0).WellFormed ∧ (Instr.clearColumn 7).WellFormed := by decide
theorem test_wf_value : ¬(Instr.setBrightness 16).WellFormed ∧ ¬(Instr.setBlinking 4).WellFormed ∧
    (Instr.setBrightness 15).WellFormed ∧ (Instr.setBlinking 3).WellFormed := by decide
theorem test_wf_reserved : ¬(Instr.reservedOp0 0 0).WellFormed ∧ ¬(Instr.reservedOpD 0 0).WellFormed ∧
    ¬(Instr.reservedOpE 1 0x23).WellFormed ∧ ¬(Instr.reservedOpF 15 0xFF).WellFormed := by decide

/-! ### Decoding: every constructor by a word of L2.4, written out in bits from R73 -/

theorem test_decode_on : decode 0b0001000000000000 0 = .ok .on := by decide
theorem test_decode_off : decode 0b0010000000000000 0 = .ok .off := by decide
theorem test_decode_set_brightness : decode 0b0011000000010000 0 = .ok (.setBrightness 16) := by decide
theorem test_decode_set_blinking : decode 0b0100000000000011 0 = .ok (.setBlinking 3) := by decide
theorem test_decode_set : decode 0b0101000000000000 0x10307FFF7F301000 =
    .ok (.set 0x10307FFF7F301000) := by decide
theorem test_decode_clear : decode 0b0110000000000000 0xFF = .ok .clear := by decide
theorem test_decode_set_row : decode 0b0111010100010010 0 = .ok (.setRow 5 0x12) := by decide
theorem test_decode_clear_row : decode 0b1000011100000000 0 = .ok (.clearRow 7) := by decide
theorem test_decode_set_pixel : decode 0b1001011100000110 0 = .ok (.setPixel 7 6) := by decide
theorem test_decode_clear_pixel : decode 0b1010001100000111 0 = .ok (.clearPixel 3 7) := by decide
theorem test_decode_set_column : decode 0b1011001110100101 0 = .ok (.setColumn 3 0xA5) := by decide
theorem test_decode_clear_column : decode 0b1100001000000000 0 = .ok (.clearColumn 2) := by decide
theorem test_decode_reserved : decode 0b0000111111111111 0 = .ok (.reservedOp0 15 0xFF) ∧
    decode 0b1101000000000000 0 = .ok (.reservedOpD 0 0) ∧
    decode 0b1110000100100011 0 = .ok (.reservedOpE 1 0x23) ∧
    decode 0b1111111111111111 0 = .ok (.reservedOpF 15 0xFF) := by decide
theorem test_decode_must_be_zero : decode 0x1001 0 = .error (.mustBeZero 0x1001) ∧
    decode 0x2100 0 = .error (.mustBeZero 0x2100) ∧ decode 0x3110 0 = .error (.mustBeZero 0x3110) ∧
    decode 0x5001 0 = .error (.mustBeZero 0x5001) ∧ decode 0x6100 0 = .error (.mustBeZero 0x6100) ∧
    decode 0x8801 0 = .error (.mustBeZero 0x8801) ∧ decode 0xC201 0 = .error (.mustBeZero 0xC201) := by
  decide
theorem test_table_word : decodeTableWord 16 0x9706 = some (.setPixel 7 6) ∧
    decodeTableWord 16 0xFF5000 = some (.set 0) ∧ decodeTableWord 16 0x8801 = none ∧
    decodeTableWord 80 0x10307FFF7F3010005000 = some (.set 0x10307FFF7F301000) := by decide

/-! ### The bit transforms and the frames (L2.1 to L2.3) -/

theorem test_reverse : reverseBits 0x12 = 0x48 ∧ reverseBits 0xC8 = 0x13 ∧ reverseBits 0x37 = 0xEC ∧
    reverseBits 0x81 = 0x81 := by decide
theorem test_mask_shift : columnMask 2 = 0x20 ∧ columnMask 7 = 0x01 ∧
    shiftBitBetweenColumns 0xA5 0x20 2 5 = 0x04 ∧ shiftBitBetweenColumns 0x01 0x01 7 0 = 0x80 ∧
    shiftBitBetweenColumns 0xFF 0x40 1 6 = 0x02 := by decide
theorem test_full_frame :
    fullFrame (bench (rowsOf [0x10, 0x30, 0x7F, 0xFF, 0x7F, 0x30, 0x10, 0x00]) []) =
      [0x00, 0x08, 0x00, 0x0C, 0x00, 0xFE, 0x00, 0xFF, 0x00, 0xFE, 0x00, 0x0C, 0x00, 0x08, 0x00,
        0x00] := by decide

/-! ### One step per instruction (L2.5, L2.6) -/

theorem test_on : let o := step (present 0x1000 0 { benchOff [] [.ok] with blink := 3 })
    traceOf o = okFrame [0x87] ∧ controlAfter o = some (true, 3, 15) := by decide
theorem test_on_write_fails : let o := step (present 0x1000 0 { benchOff [] [.fail] with blink := 1 })
    traceOf o = some [.write 0x70 [0x83] .fail, .response .transportFailure] ∧
    controlAfter o = some (true, 1, 15) := by decide
theorem test_off : let o := step (present 0x2000 0 { bench [] [.ok] with blink := 2 })
    traceOf o = okFrame [0x80] ∧ controlAfter o = some (false, 2, 15) := by decide
theorem test_set_brightness : let o := step (present 0x3007 0 (benchOff [] [.ok]))
    traceOf o = okFrame [0xE7] ∧ controlAfter o = some (false, 0, 7) := by decide
theorem test_set_brightness_invalid : let o := step (present 0x3010 0 (bench [] [.ok]))
    traceOf o = some [.response .invalidArgument] ∧ controlAfter o = some (true, 0, 15) := by decide
theorem test_set_blinking : let o := step (present 0x4002 0 (bench [] [.ok]))
    traceOf o = okFrame [0x85] ∧ controlAfter o = some (true, 2, 15) := by decide
theorem test_set_blinking_latched : let o := step (present 0x4003 0 (benchOff [] [.fail]))
    traceOf o = some [.response .ok] ∧ controlAfter o = some (false, 3, 15) := by decide
theorem test_set : let o := step (present 0x5000 0x10307FFF7F301000 (bench [] [.ok]))
    rowsAfter o = some [0x10, 0x30, 0x7F, 0xFF, 0x7F, 0x30, 0x10, 0x00] ∧
    traceOf o = okFrame [0x00, 0x08, 0x00, 0x0C, 0x00, 0xFE, 0x00, 0xFF, 0x00, 0xFE, 0x00, 0x0C, 0x00,
      0x08, 0x00, 0x00] := by decide
theorem test_clear : let o := step (present 0x6000 0 (bench (rowsOf [0x10, 0x30, 0x7F]) [.ok]))
    rowsAfter o = some (List.replicate 8 0x00) ∧ traceOf o = okFrame (List.replicate 16 0x00) := by
  decide
theorem test_set_row : let o := step (present 0x7512 0 (bench [] [.fail]))
    rowsAfter o = some [0x00, 0x00, 0x00, 0x00, 0x00, 0x12, 0x00, 0x00] ∧
    traceOf o = some [.write 0x70 [0x0A, 0x48] .fail, .response .transportFailure] := by decide
theorem test_clear_row : let o := step (present 0x8600 0 (bench (rowsOf [1, 2, 3, 4, 5, 6, 7, 8]) [.ok]))
    rowsAfter o = some [1, 2, 3, 4, 5, 6, 0, 8] ∧ traceOf o = okFrame [0x0C, 0x00] := by decide
theorem test_set_pixel : let o := step (present 0x9706 0 (benchOff [] [.ok]))
    rowsAfter o = some [0x00, 0x00, 0x00, 0x00, 0x00, 0x00, 0x00, 0x02] ∧
    traceOf o = okFrame [0x0E, 0x40] := by decide
theorem test_set_pixel_fault : faultWord (step (present 0x9F09 0 (bench [] [.ok]))) = some 0x9F09 ∧
    faultWord (step (present 0x9708 0 (bench [] [.ok]))) = some 0x9708 := by decide
theorem test_clear_pixel : let o := step (present 0xA307 0 (bench (rowsOf [0, 0, 0, 0xFF]) [.ok]))
    rowsAfter o = some [0, 0, 0, 0xFE, 0, 0, 0, 0] ∧ traceOf o = okFrame [0x06, 0x7F] := by decide
set_option maxRecDepth 4000 in
theorem test_set_column : let o := step (present 0xB20F 0 (bench (rowsOf (List.replicate 8 0xFF)) [.ok]))
    rowsAfter o = some [0xDF, 0xDF, 0xDF, 0xDF, 0xFF, 0xFF, 0xFF, 0xFF] ∧
    traceOf o = okFrame [0x00, 0xFB, 0x00, 0xFB, 0x00, 0xFB, 0x00, 0xFB, 0x00, 0xFF, 0x00, 0xFF, 0x00,
      0xFF, 0x00, 0xFF] := by decide
set_option maxRecDepth 4000 in
theorem test_set_column_order :
    rowsAfter (step (present 0xB001 0 (bench [] [.ok]))) = some [0, 0, 0, 0, 0, 0, 0, 0x80] ∧
    rowsAfter (step (present 0xB001 0 { bench [] [.ok] with columnOrder := .lsbTop })) =
      some [0x80, 0, 0, 0, 0, 0, 0, 0] := by decide
theorem test_clear_column :
    let o := step (present 0xC200 0 (bench (rowsOf (List.replicate 8 0xFF)) [.ok]))
    rowsAfter o = some (List.replicate 8 0xDF) ∧
    traceOf o = okFrame ((List.replicate 8 [0x00, 0xFB]).flatten) := by decide
theorem test_reserved : traceOf (step (present 0x0FFF 0 (bench [] [.ok]))) =
      some [.response .illegalCommand] ∧
    traceOf (step (present 0xD000 0 (bench [] [.ok]))) = some [.response .illegalCommand] ∧
    traceOf (step (present 0xE123 0 (bench [] [.ok]))) = some [.response .illegalCommand] ∧
    traceOf (step (present 0xFFFF 0 (bench [] [.ok]))) = some [.response .illegalCommand] := by decide
theorem test_priority : traceOf (step (present 0x8801 0 (bench [] [.ok]))) =
      some [.response .illegalCommand] ∧
    traceOf (step (present 0x3110 0 (bench [] [.ok]))) = some [.response .illegalCommand] ∧
    refusal (step (present 0x8801 0 { bench [] [.ok] with life := .failed })) =
      some (.notReady .failed) := by decide

/-! ### Reset (L2.7) -/

/-- A state with one reset presented. -/
def presentReset (a : Option Nat) (b : Nat) (s : State) : State := { s with pending := [.reset a b] }

theorem test_reset_ok :
    let o := step (presentReset (some 0x71) 8 { bench [(0, 0xFF)] [.ok, .ok, .ok, .ok] with life := .failed })
    traceOf o = some [.write 0x71 [0x21] .ok, .write 0x71 [0xE8] .ok,
      .write 0x71 (List.replicate 16 0x00) .ok, .write 0x71 [0x81] .ok, .response .ok] ∧
    controlAfter o = some (true, 0, 8) ∧ next? (fun t => (t.life, t.devaddr)) o = some (.ready, 0x71) := by
  decide
theorem test_reset_w3_fails :
    let o := step (presentReset none 15 (bench [] [.ok, .ok, .fail]))
    traceOf o = some [.write 0x70 [0x21] .ok, .write 0x70 [0xEF] .ok,
      .write 0x70 (List.replicate 16 0x00) .fail, .response .transportFailure] ∧
    next? (fun t => t.life) o = some .failed := by decide
theorem test_reset_refused : refusal (step (presentReset (some 0x70) 16 (bench [] []))) =
      some (.resetBrightness 16) ∧
    refusal (step (presentReset (some 0x80) 15 (bench [] []))) = some (.resetAddress 0x80) := by decide
/-- The frame layout of the word the host places (log entry 20). -/
theorem test_fetch : (bench [] []).withFetchWord 16 0x9706 = present 0x9706 0 (bench [] []) := rfl
/-- Program P6: the fault is kept for the run, and only a reset leads on. -/
theorem test_run_after_fault :
    let r := RunRecord.run 3 ⟨{ bench [] [.ok, .ok, .ok, .ok, .ok] with
      pending := [.command 0x713C 0, .command 0x9800 0, .reset none 15] }, [], false⟩
    r.faults = [0x9800] ∧ r.refused = false ∧ r.state.life = .ready := by decide


/-! ### Witnesses: for each statement with hypotheses, values that meet them, each clause at its bounds -/

/-- A READY block as a reset with brightness 15 leaves it: trace, registers and chip agree. -/
def fresh (rs : List TransportResult) : State :=
  { bench [] rs with
    trace := [.write 0x70 [0x21] .ok, .write 0x70 [0xEF] .ok, .write 0x70 (List.replicate 16 0x00) .ok,
      .write 0x70 [0x81] .ok, .response .ok]
    chip := { State.reset.chip with dimming := 15 } }

/-- A block in life state `l`. -/
def benchIn (l : Life) (rs : List TransportResult) : State := { bench [] rs with life := l }

theorem witness_SuccessfulResetLeavesInitialState :
    let s := presentReset (some 0x7F) 15 (benchIn .faulted [.ok, .ok, .ok, .ok])
    s.pending = [.reset (some 0x7F) 15] ∧ ∀ k < 4, s.resultAt k = .ok := by decide
theorem witness_FailedResetStopsAtFailingWrite :
    let s := presentReset (some 0x7F) 15 (benchIn .unreset [.fail])
    let u := presentReset (some 0) 0 (bench [] [.ok, .ok, .ok, .fail])
    s.pending = [.reset (some 0x7F) 15] ∧ (∀ j < 0, s.resultAt j = .ok) ∧ s.resultAt 0 = .fail ∧
    u.pending = [.reset (some 0) 0] ∧ (∀ j < 3, u.resultAt j = .ok) ∧ u.resultAt 3 = .fail := by decide
theorem witness_ResetParametersAreSampledAtReset :
    (presentReset none 8 (bench [] [])).pending = [.reset none 8] ∧
    (∃ t, step (presentReset none 8 (bench [] [.ok, .ok, .ok, .ok])) = .next t) ∧
    ∃ t, exec (.setBrightness 3) (bench [] [.ok]) = .next t := ⟨rfl, ⟨_, rfl⟩, ⟨_, rfl⟩⟩
theorem witness_HostDutyViolationsAreRefused :
    { bench [] [] with pending := [.overlap] }.pending = [HostAction.overlap] ∧
    (presentReset (some 0x7F) 16 (bench [] [])).pending = [.reset (some 0x7F) 16] ∧ 15 < 16 ∧
    (some 0x7F : Option Nat).getD 0x70 ≤ 0x7F ∧
    (presentReset (some 0x80) 15 (bench [] [])).pending = [.reset (some 0x80) 15] ∧ 0x7F < 0x80 ∧
    15 ≤ 15 := by decide
theorem witness_CommandsOutsideReadyAreRefused : let s := present 0x1000 0 (benchIn .unreset [])
    s.pending = [.command 0x1000 0] ∧ s.life ≠ .ready := by decide
theorem witness_OnlyResetLeavesNotReady :
    (∃ t, step (presentReset none 15 (benchIn .failed [.ok, .ok, .ok, .ok])) = .next t ∧
      t.life ≠ .failed) ∧ (benchIn .failed []).life ≠ .ready ∧
    (present 0x2000 0 (benchIn .faulted [])).life = .faulted ∧
    (⟨bench [] [], [], true⟩ : RunRecord).refused = true :=
  ⟨⟨_, rfl, by decide⟩, by decide, rfl, rfl⟩
theorem witness_StepRunsDecodedInstruction :
    (present 0xC700 0 (bench [] [])).pending = [.command 0xC700 0] ∧
    decode 0xC700 0 = .ok (.clearColumn 7) := by decide
theorem witness_StepWithoutTransactionIsIdle : (bench [] []).pending = [] := by decide
theorem witness_OutcomesFollowThePriority :
    (benchIn .failed []).life ≠ .ready ∧ decode 0x8801 0 = .error (.mustBeZero 0x8801) ∧
    decode 0xF000 0 = .ok (.reservedOpF 0 0) ∧ (Instr.setRow 8 0).coordinatesLegal = false ∧
    (Instr.setBlinking 4).valueLegal = false ∧ (Instr.setBlinking 3).WellFormed ∧
    (benchOff [] [.fail]).on = false ∧ (bench [] [.fail]).resultAt 0 = .fail := by decide
theorem witness_OkExactlyWhenPassedAndDelivered :
    (∃ t, exec (.setBlinking 3) (benchOff [] [.fail]) = .next t) ∧
    (∃ t, exec (.setRow 7 0xFF) (bench [] [.ok]) = .next t) ∧
    ∃ t, exec (.setBrightness 16) (bench [] [.ok]) = .next t := ⟨⟨_, rfl⟩, ⟨_, rfl⟩, ⟨_, rfl⟩⟩
theorem witness_LegalCommandsComplete : (bench [] []).life = .ready ∧ (Instr.setPixel 7 7).WellFormed ∧
    (Instr.setBrightness 15).WellFormed := by decide
theorem witness_FaultExactlyOnBadCoordinate : (bench [] []).life = .ready ∧
    (Instr.setPixel 7 8).coordinatesLegal = false ∧ (Instr.setPixel 7 7).coordinatesLegal = true := by
  decide
theorem witness_StateWritesSurviveTransportFailure :
    ∃ t, exec (.setRow 5 0x12) { bench [] [] with results := [.ok] } = .next t := ⟨_, rfl⟩
theorem witness_AtMostOneFramePerCommand :
    (∃ t, exec (.setBlinking 3) (benchOff [] []) = .next t) ∧
    ∃ t, exec (.setColumn 7 0) (bench [] [.ok]) = .next t := ⟨⟨_, rfl⟩, ⟨_, rfl⟩⟩
theorem witness_CommandsKeepIdentityAndControlKeepsRows :
    (∃ t, exec .on (bench [] [.ok]) = .next t) ∧ (∃ t, exec .off (bench [] [.ok]) = .next t) ∧
    (∃ t, exec (.setBrightness 15) (bench [] [.ok]) = .next t) ∧
    ∃ t, exec (.setBlinking 3) (bench [] [.ok]) = .next t := ⟨⟨_, rfl⟩, ⟨_, rfl⟩, ⟨_, rfl⟩, ⟨_, rfl⟩⟩
theorem witness_BufferCommandsIgnoreControl :
    let i := Instr.clearPixel 7 7
    (i.notReserved = true ∧ i ≠ .on ∧ i ≠ .off ∧ (∀ x, i ≠ .setBrightness x) ∧
      ∀ x, i ≠ .setBlinking x) ∧ ∃ t, exec i (bench [] [.ok]) = .next t :=
  ⟨⟨rfl, nofun, nofun, nofun, nofun⟩, ⟨_, rfl⟩⟩
theorem witness_EncodeOfDecode : decode 0x9F09 0 = .ok (.setPixel 15 9) := by decide
theorem witness_DecoderAgreesWithOpcodeMap : decode 0xC200 0 = .ok (.clearColumn 2) ∧
    (0xC000, 0xF0FF) ∈ opcodeRows ∧ (0xC200 : CommandWord) &&& 0xF0FF = 0xC000 ∧
    ∀ row ∈ opcodeRows, (0xC201 : CommandWord) &&& row.2 ≠ row.1 :=
  ⟨by decide, by simp [opcodeRows], by decide, by simp [opcodeRows]⟩
theorem witness_MustBeZeroViolationIsIllegal :
    (present 0x1001 0 (bench [] [])).life = .ready ∧
    (present 0x1001 0 (bench [] [])).pending = [.command (0x1#4 ++ 0x0#4 ++ 0x01#8) 0] ∧
    (present 0x4F00 0 (bench [] [])).pending = [.command (0x4#4 ++ 0xF#4 ++ 0x00#8) 0] ∧
    (present 0xC8FF 0 (bench [] [])).pending = [.command (0xC#4 ++ 0x8#4 ++ 0xFF#8) 0] := by decide
theorem witness_ReservedSelectorsAreIllegal :
    (present 0xFFFF 0 (bench [] [])).life = .ready ∧
    (present 0x0000 0 (bench [] [])).pending = [.command (0x0#4 ++ 0x0#4 ++ 0x00#8) 0] ∧
    (present 0xFFFF 0 (bench [] [])).pending = [.command (0xF#4 ++ 0xF#4 ++ 0xFF#8) 0] := by decide
theorem witness_OnSetsPowerAndEmits : (benchOff [] [.fail]).life = .ready ∧
    ((0xF : BitVec 4) ≠ 0 ∨ (0 : BitVec 8) ≠ 0) := by decide
theorem witness_OffClearsPowerAndEmits : (bench [] [.ok]).life = .ready ∧
    ((0 : BitVec 4) ≠ 0 ∨ (0x01 : BitVec 8) ≠ 0) := by decide
theorem witness_SetBrightnessResult : (bench [] []).life = .ready ∧ (15 : BitVec 8).toNat ≤ 15 ∧
    15 < (16 : BitVec 8).toNat ∧ (1 : BitVec 4) ≠ 0 := by decide
theorem witness_SetBlinkingResult : (bench [] []).life = .ready ∧ (3 : BitVec 8).toNat ≤ 3 ∧
    3 < (4 : BitVec 8).toNat ∧ (bench [] []).on = true ∧ (benchOff [] []).on = false ∧
    (1 : BitVec 4) ≠ 0 := by decide
theorem witness_LatchedBlinkIsShownByOn : (benchOff [] []).life = .ready ∧ (benchOff [] []).on = false ∧
    (3 : BitVec 8).toNat ≤ 3 := by decide
theorem witness_OffThenOnPreservesEverything : (bench [(7, 0x02)] [.ok, .fail]).life = .ready := by decide
theorem witness_SetReplacesEveryRow : (bench [(7, 0x02)] [.ok]).life = .ready ∧
    ((1 : BitVec 4) ≠ 0 ∨ (0 : BitVec 8) ≠ 0) := by decide
theorem witness_ClearZeroesEveryRow : (bench [(7, 0x02)] [.fail]).life = .ready ∧
    ((0 : BitVec 4) ≠ 0 ∨ (1 : BitVec 8) ≠ 0) := by decide
theorem witness_SetRowResult : (bench [] []).life = .ready ∧ (7 : BitVec 4).toNat < 8 ∧
    8 ≤ (8 : BitVec 4).toNat := by decide
theorem witness_ClearRowResult : (bench [] []).life = .ready ∧ (7 : BitVec 4).toNat < 8 ∧
    8 ≤ (8 : BitVec 4).toNat ∧ (1 : BitVec 8) ≠ 0 := by decide
theorem witness_SetPixelResult : (bench [] []).life = .ready ∧ (7 : BitVec 4).toNat < 8 ∧
    (7 : BitVec 8).toNat < 8 ∧ 8 ≤ (8 : BitVec 4).toNat ∧ 8 ≤ (8 : BitVec 8).toNat := by decide
theorem witness_ClearPixelResult : (bench [] []).life = .ready ∧ (0 : BitVec 4).toNat < 8 ∧
    (0 : BitVec 8).toNat < 8 ∧ 8 ≤ (15 : BitVec 4).toNat ∧ 8 ≤ (255 : BitVec 8).toNat := by decide
theorem witness_SetColumnResult : (bench [] []).life = .ready ∧ (7 : BitVec 4).toNat < 8 ∧
    8 ≤ (8 : BitVec 4).toNat := by decide
theorem witness_ClearColumnResult : (bench [] []).life = .ready ∧ (7 : BitVec 4).toNat < 8 ∧
    8 ≤ (8 : BitVec 4).toNat ∧ (1 : BitVec 8) ≠ 0 := by decide
theorem witness_ZeroPatternsActAsClears : (7 : BitVec 4).toNat < 8 := by decide
theorem witness_SetThenClearPixelRestoresIffOff : (bench [(1, 0x40)] []).life = .ready ∧
    (1 : BitVec 4).toNat < 8 ∧ (1 : BitVec 8).toNat < 8 := by decide
theorem witness_SetAllThenClearColumn : (bench [(0, 0x01)] []).life = .ready ∧
    (5 : BitVec 4).toNat < 8 := by decide
theorem witness_EveryWriteIsAFrameToTheDevice :
    (∃ t, step (present 0x9706 0 (bench [] [.ok])) = .next t ∧ t.trace ≠ []) ∧
    ∃ t, step (presentReset none 15 (bench [] [.ok, .fail])) = .next t ∧ t.trace ≠ [] :=
  ⟨⟨_, rfl, by decide⟩, ⟨_, rfl, by decide⟩⟩
theorem witness_StepKeepsCanonicalMemory :
    (present 0x5000 0xFF (bench [(7, 0x02)] [.ok])).Canonical ∧
    (∃ t, step (present 0x5000 0xFF (bench [(7, 0x02)] [.ok])) = .next t) ∧
    (present 0x9800 0 (bench [(7, 0x02)] [])).Canonical ∧
    ∃ w t, step (present 0x9800 0 (bench [(7, 0x02)] [])) = .fault (.coordinateUndefined w t) :=
  ⟨⟨by decide, by decide⟩, ⟨_, rfl⟩, ⟨by decide, by decide⟩, ⟨_, _, rfl⟩⟩
theorem witness_StepKeepsShadowOfTrace : (present 0x9706 0 (fresh [.fail])).ShadowsTrace ∧
    ∃ t, step (present 0x9706 0 (fresh [.fail])) = .next t :=
  ⟨fun _ => ⟨fun r => ⟨List.replicate 16 0x00, .ok, by revert r; decide, by revert r; decide⟩,
    ⟨.ok, by decide⟩, ⟨.ok, by decide⟩⟩, ⟨_, rfl⟩⟩
theorem witness_StepKeepsChipAgreement : (present 0x9706 0 (fresh [.ok])).ChipAgrees ∧
    (fresh [.ok]).chip.addr = (fresh [.ok]).devaddr ∧
    ∃ t, step (present 0x9706 0 (fresh [.ok])) = .next t :=
  ⟨fun _ _ => ⟨fun r _ _ => by clear * - r; revert r; decide, fun _ _ => ⟨rfl, fun _ => rfl⟩, fun _ _ => rfl⟩, rfl,
    ⟨_, rfl⟩⟩
theorem witness_StepKeepsOscillatorOn : (present 0x2000 0 (fresh [.ok])).OscillatorOn ∧
    ∃ t, step (present 0x2000 0 (fresh [.ok])) = .next t := ⟨fun _ _ => rfl, ⟨_, rfl⟩⟩
theorem witness_FullFrameResynchronisesTheChip :
    (∃ t, exec (.set 0xFF) (fresh [.ok]) = .next t) ∧ (∃ t, exec .clear (fresh [.ok]) = .next t) ∧
    (∃ t, exec (.setColumn 7 0xFF) (fresh [.ok]) = .next t) ∧
    (∃ t, exec (.clearColumn 7) (fresh [.ok]) = .next t) ∧ (fresh [.ok]).resultAt 0 = .ok ∧
    (fresh [.ok]).chip.addr = (fresh [.ok]).devaddr :=
  ⟨⟨_, rfl⟩, ⟨_, rfl⟩, ⟨_, rfl⟩, ⟨_, rfl⟩, rfl, rfl⟩
theorem witness_PixelCommandsLightTheDisplay :
    (7 : BitVec 4).toNat < 8 ∧ (7 : BitVec 8).toNat < 8 ∧ (fresh [.ok]).life = .ready ∧
    (fresh [.ok]).resultAt 0 = .ok ∧ (fresh [.ok]).chip.addr = (fresh [.ok]).devaddr ∧
    (fresh [.ok]).chip.osc = true ∧ (fresh [.ok]).chip.displayOn = true := by decide

theorem witness_ReverseBitsLaws : 0 < 8 ∧ 7 < 8 ∧ (reverseBits 0x02).getLsbD 6 = true ∧
    (reverseBits 0x80).getLsbD 0 = true := by decide
theorem witness_WireBitsCarryPixels : (bench [] [.fail]).life = .ready ∧
    (Instr.setPixel 7 0).WellFormed ∧ Instr.setPixel 7 0 ≠ .on ∧ Instr.setPixel 7 0 ≠ .off ∧
    (∀ x, Instr.setPixel 7 0 ≠ .setBrightness x) ∧ (∀ x, Instr.setPixel 7 0 ≠ .setBlinking x) ∧
    (Instr.setColumn 7 0xFF).WellFormed ∧ coversRow 7 [0x0E, 0x01] = true ∧
    coversRow 6 [0x0E, 0x01] = false ∧ coversRow 7 (List.replicate 16 0x00) = true :=
  ⟨rfl, by decide, nofun, nofun, nofun, nofun, by decide, by decide, by decide, by decide⟩

theorem test_lit : let k := (fresh []).chip
    { k with ram := [(14, 0x40)] }.lit 7 6 = some true ∧
    { k with ram := [(14, 0x40)] }.lit 7 5 = some false ∧ { k with ram := [] }.lit 7 6 = none ∧
    { k with ram := [], osc := false }.lit 7 6 = some false ∧
    { k with ram := [], displayOn := false }.lit 7 6 = some false := by decide
theorem test_power_up_dark : State.powerUp.chip.lit 0 0 = some false := by decide
theorem witness_PixelIsLitByThreeConditions : let k := (fresh []).chip
    { k with osc := false }.osc = false ∧ { k with displayOn := false }.displayOn = false ∧
    cellAt k.ram (2 * 7) = some 0x00 ∧ { k with ram := [(14, 0x80)] }.lit 7 7 = some true := by decide
theorem witness_NothingIsLitBeforeOscillatorFrame :
    let s := presentReset (some 0x71) 15
      { bench [] [.ok, .ok, .ok, .ok] with chip := Chip.powerUp 0 0x70 }
    s.chip.osc = false ∧ ∃ t, step s = .next t ∧ t.trace.length = 5 ∧
      ∀ res, Event.write s.chip.addr [0x21] res ∉ t.trace.drop s.trace.length :=
  ⟨rfl, _, rfl, rfl, fun res => by cases res <;> decide⟩
theorem witness_ReceivedOscillatorFrameStays : (fresh []).chip.osc = true ∧
    (∃ t, step (present 0x2000 0 (fresh [.ok])) = .next t) ∧
    ∃ w t, step (present 0x9800 0 (fresh [])) = .fault (.coordinateUndefined w t) :=
  ⟨rfl, ⟨_, rfl⟩, ⟨_, _, rfl⟩⟩
theorem witness_OffDarkensTheDisplay : (fresh [.ok]).life = .ready ∧ (fresh [.ok]).resultAt 0 = .ok ∧
    (fresh [.ok]).chip.addr = (fresh [.ok]).devaddr := by decide

end Sys2Proof.Tests
end

section
/-! PROOFS. The state as a whole (10_state.md): the canonical form of its two memories (R20, R32), the
state a successful reset leaves (R37), and power-up (R36). -/

namespace Sys2Proof.Machine

open Sys2Proof

/-! ### The canonical form

`State.Canonical` reads only `rows` and `chip`, so a proof of it for `s` is one for `s` after any
register write, `takeAction` or `respond`. What can change it is a row update, a write that reaches the
chip, and the free values of `unspecify` and of a fault. -/

theorem State.Canonical.setRows {s : State} {m : Memory} (h : s.Canonical) (hm : s.rows.wf → m.wf) :
    (s.setRows m).Canonical :=
  ⟨hm h.1, h.2⟩

theorem State.Canonical.afterWrite {s : State} (h : s.Canonical) (frame : List Byte) :
    (s.afterWrite frame).Canonical :=
  ⟨h.1, Chip.receive_wf _ _ _ h.2⟩

theorem State.Canonical.emitted {s : State} (h : s.Canonical) (frame : State → List Byte) :
    (s.emitted frame).Canonical :=
  h.afterWrite _

theorem State.unspecify_rows_wf {s : State} (h : s.rows.wf) : s.unspecify.rows.wf := by
  rw [State.unspecify_rows]
  exact forRows_wf _ h

theorem State.Canonical.unspecify {s : State} (h : s.Canonical) : s.unspecify.Canonical :=
  ⟨State.unspecify_rows_wf h.1, h.2⟩

theorem State.Canonical.afterFault {s : State} (h : s.Canonical) : s.afterFault.Canonical :=
  ⟨State.unspecify_rows_wf (s := s.unspecifiedTraffic) h.1, State.afterFault_chip_wf h.2⟩

theorem State.Canonical.resetEnded {s : State} (h : s.Canonical) (frame : State → List Byte) :
    (s.resetEnded frame).Canonical :=
  (h.afterWrite _).unspecify

/-- Every completed command keeps the canonical form. -/
theorem Performed.canonical {s t : State} (ht : Performed s t) (h : s.Canonical) : t.Canonical := by
  cases ht with
  | rejected | blinkLatched => exact h
  | power b => exact State.Canonical.emitted (s := s.setOn b) h _
  | brightness v => exact State.Canonical.emitted (s := s.setBright v) h _
  | blinkShown m => exact State.Canonical.emitted (s := s.setBlink m) h _
  | row r m hwf | buffer m hwf => exact (h.setRows hwf).emitted _

/-- A reset sequence keeps the canonical form, whichever of its writes fails. -/
theorem resetBlock_canonical {a : DeviceAddress} {b : BitVec 4} {s t : State}
    (ht : resetBlock a b s = .next t) (h : s.Canonical) : t.Canonical := by
  have h1 : (s.resetW1 a).Canonical := h
  have h2 : (s.resetW2 a b).Canonical := h1.afterWrite _
  have h3 : (s.resetW3 a b).Canonical := (h2.afterWrite _).setRows fbZeroAll_wf
  have h4 : (s.resetW4 a b).Canonical := h3.afterWrite _
  rw [resetBlock_eq] at ht
  cases ht
  split
  · exact h1.resetEnded _
  split
  · exact h2.resetEnded _
  split
  · exact h3.resetEnded _
  split
  · exact h4.resetEnded _
  · exact h4.afterWrite _

/-- Settles O45: by what a step and a fault can leave. -/
theorem stepKeepsCanonicalMemory : Obligations.StepKeepsCanonicalMemory := by
  intro s h
  have hp : s.takeAction.Canonical := h
  refine ⟨fun t ht => ?_, fun w t ht => ?_⟩
  · obtain ⟨-, rfl⟩ | ⟨-, hc⟩ | ⟨a, b, hr⟩ := step_next ht
    · exact h
    · exact hc.canonical hp
    · exact resetBlock_canonical hr hp
  · rw [step_fault ht]
    exact hp.afterFault

/-! ### A successful reset -/

/-- A presented reset with legal parameters runs the reset sequence (R280). -/
theorem step_of_legal_reset {s : State} {a b : Nat} {rest : List HostAction} (ha : a ≤ 0x7F)
    (hb : b ≤ 15) (hp : s.pending = .reset (some a) b :: rest) :
    step s = resetBlock (BitVec.ofNat 7 a) (BitVec.ofNat 4 b) s.takeAction := by
  simp only [step, transact, hp, presentAction, resetTransaction, Option.getD_some,
    if_neg (Nat.not_lt.2 ha), if_neg (Nat.not_lt.2 hb)]

/-! At the state before write W2, W3 or W4 of a reset, one, two or three results are used up. -/

theorem State.resetW2_resultAt (a : DeviceAddress) (b : BitVec 4) (s : State) (k : Nat) :
    (s.resetW2 a b).resultAt k = s.resultAt (k + 1) :=
  State.afterWrite_resultAt (oscFrame (s.resetW1 a)) (s.resetW1 a) k

theorem State.resetW3_resultAt (a : DeviceAddress) (b : BitVec 4) (s : State) (k : Nat) :
    (s.resetW3 a b).resultAt k = s.resultAt (k + 2) :=
  (State.afterWrite_resultAt (brightnessFrame (s.resetW2 a b)) (s.resetW2 a b) k).trans
    (s.resetW2_resultAt a b (k + 1))

theorem State.resetW4_resultAt (a : DeviceAddress) (b : BitVec 4) (s : State) (k : Nat) :
    (s.resetW4 a b).resultAt k = s.resultAt (k + 3) :=
  (State.afterWrite_resultAt (fullFrame (s.resetW3 a b)) (s.resetW3 a b) k).trans
    (s.resetW3_resultAt a b (k + 1))

/-! The result of each write of a reset, counted from the state the reset began in. -/

theorem State.resetW1_nextResult (a : DeviceAddress) (s : State) :
    (s.resetW1 a).nextResult = s.resultAt 0 :=
  s.nextResult_eq_resultAt

theorem State.resetW2_nextResult (a : DeviceAddress) (b : BitVec 4) (s : State) :
    (s.resetW2 a b).nextResult = s.resultAt 1 := by
  rw [State.nextResult_eq_resultAt, State.resetW2_resultAt]

theorem State.resetW3_nextResult (a : DeviceAddress) (b : BitVec 4) (s : State) :
    (s.resetW3 a b).nextResult = s.resultAt 2 := by
  rw [State.nextResult_eq_resultAt, State.resetW3_resultAt]

theorem State.resetW4_nextResult (a : DeviceAddress) (b : BitVec 4) (s : State) :
    (s.resetW4 a b).nextResult = s.resultAt 3 := by
  rw [State.nextResult_eq_resultAt, State.resetW4_resultAt]

/-- When its four writes return `ok`, a reset completes. -/
theorem resetBlock_of_ok {s : State} (a : DeviceAddress) (b : BitVec 4)
    (h : ∀ k < 4, s.resultAt k = .ok) : resetBlock a b s = .next (s.resetDone a b) := by
  simp only [resetBlock_eq, State.resetW1_nextResult, State.resetW2_nextResult,
    State.resetW3_nextResult, State.resetW4_nextResult, h 0 (by decide), h 1 (by decide),
    h 2 (by decide), h 3 (by decide)]

/-- W3 carries sixteen zero bytes, since every row is zero when it is encoded (R145, R280). -/
theorem fullFrame_resetW3 (a : DeviceAddress) (b : BitVec 4) (s : State) :
    fullFrame (s.resetW3 a b) = List.replicate 16 0x00 := by
  have h0 : ∀ r : Fin 8, (s.resetW3 a b).rows.read r.val = 0x00 := read_fbZeroAll s.rows
  simp only [fullFrame, h0]
  decide

/-- W4 carries the power byte of `ON = 1` and `BLINK = 0` (R142, R280). -/
theorem powerFrame_resetW4 (a : DeviceAddress) (b : BitVec 4) (s : State) :
    powerFrame (s.resetW4 a b) = [0x81] := by
  simp [powerFrame, State.resetW4]

/-! What each write of a reset adds to the trace: W1 to W4 (R280). -/

theorem State.resetW2_trace (a : DeviceAddress) (b : BitVec 4) (s : State) :
    (s.resetW2 a b).trace = s.trace ++ [.write a [0x21] (s.resultAt 0)] := by
  rw [← s.resetW1_nextResult a]; rfl

theorem State.resetW3_trace (a : DeviceAddress) (b : BitVec 4) (s : State) :
    (s.resetW3 a b).trace =
      (s.resetW2 a b).trace ++ [.write a [0xE0 ||| b.setWidth 8] (s.resultAt 1)] := by
  rw [← s.resetW2_nextResult a b]; rfl

theorem State.resetW4_trace (a : DeviceAddress) (b : BitVec 4) (s : State) :
    (s.resetW4 a b).trace =
      (s.resetW3 a b).trace ++ [.write a (List.replicate 16 0x00) (s.resultAt 2)] := by
  rw [← s.resetW3_nextResult a b, ← fullFrame_resetW3 a b s]; rfl

theorem State.resetDone_trace (a : DeviceAddress) (b : BitVec 4) (s : State) :
    (s.resetDone a b).trace =
      (s.resetW4 a b).trace ++ [.write a [0x81] (s.resultAt 3)] ++ [.response .ok] := by
  rw [← s.resetW4_nextResult a b, ← powerFrame_resetW4 a b s]; rfl

/-- A completed reset whose writes all returned `ok` has added exactly W1 to W4 and the response. -/
theorem State.resetDone_trace_of_ok {s : State} (a : DeviceAddress) (b : BitVec 4)
    (h : ∀ k < 4, s.resultAt k = .ok) :
    (s.resetDone a b).trace =
      s.trace ++ (resetFrames b).map (fun f => Event.write a f .ok) ++ [.response .ok] := by
  rw [State.resetDone_trace, State.resetW4_trace, State.resetW3_trace, State.resetW2_trace,
    h 0 (by decide), h 1 (by decide), h 2 (by decide), h 3 (by decide)]
  simp [resetFrames]

/-- Settles O2: the reset sequence runs to `State.resetDone`, whose registers are read off. -/
theorem successfulResetLeavesInitialState : Obligations.SuccessfulResetLeavesInitialState := by
  intro s a b rest ha hb hp hok
  have hok' : ∀ k < 4, s.takeAction.resultAt k = .ok := hok
  have hpending : s.takeAction.pending = rest := by rw [State.takeAction_pending, hp, List.tail_cons]
  refine ⟨s.takeAction.resetDone (BitVec.ofNat 7 a) (BitVec.ofNat 4 b), ?_, read_fbZeroAll s.rows,
    rfl, rfl, rfl, rfl, rfl, rowAddr_toNat, rfl, hpending, State.resetDone_trace_of_ok _ _ hok'⟩
  rw [step_of_legal_reset ha hb hp, resetBlock_of_ok _ _ hok']

/-! ### Power-up -/

/-- A command presented outside READY is refused, whatever the decoder answers (R252). -/
theorem presentCommand_of_not_ready {s : State} (h : s.life ≠ .ready) (w : CommandWord)
    (bmp : Bitmap) : presentCommand w bmp s = .refused (.notReady s.life) := by
  unfold presentCommand
  split
  · exact exec_not_ready _ h
  · exact whenReady_of_not_ready h _

/-- Settles O6: `State.powerUp` is outside READY. -/
theorem powerUpRefusesCommands : Obligations.PowerUpRefusesCommands :=
  ⟨rfl, fun _ _ => presentCommand_of_not_ready (s := { State.powerUp with pending := [] })
    (by decide) _ _⟩

end Sys2Proof.Machine
end

section
/-! PROOFS. The framebuffer as a write-through shadow (20_memory.md section 5): what each frame carries,
the shadow relation between the registers and the trace (R65 (a) to (c)), the chip's agreement with the
registers (R64, R65), and the wire bits of a buffer command's frame (R51, R102). -/

namespace Sys2Proof.Machine

open Sys2Proof

/-! ### What each frame carries

A row is carried by its row frame and by every full frame, the power state by a power frame, the
brightness by a brightness frame, and nothing by any other (R65, 42_protocol_encoder.md R141 to R145). -/

theorem rowAddr_inj {r r' : Fin 8} : rowAddr r = rowAddr r' ↔ r = r' := by
  revert r r'; decide

@[simp] theorem length_fullFrame (s : State) : (fullFrame s).length = 16 := rfl

/-- The power frame is always the one byte that `State.ShadowsTrace` writes out (R142). -/
theorem powerFrame_eq (s : State) :
    powerFrame s = [if s.on then 0x81#8 ||| (s.blink.setWidth 8 <<< 1) else 0x80] := by
  unfold powerFrame
  split <;> rfl

@[simp] theorem coversRow_powerFrame (r : Fin 8) (s : State) :
    coversRow r (powerFrame s) = false := by
  rw [powerFrame_eq]; rfl

@[simp] theorem coversRow_brightnessFrame (r : Fin 8) (s : State) :
    coversRow r (brightnessFrame s) = false := rfl

@[simp] theorem coversRow_rowFrame (r r' : Fin 8) (s : State) :
    coversRow r (rowFrame r' s) = decide (r' = r) := by
  simp [coversRow, rowFrame, beq_eq_decide, rowAddr_inj]

@[simp] theorem coversRow_fullFrame (r : Fin 8) (s : State) : coversRow r (fullFrame s) = true := by
  simp [coversRow]

@[simp] theorem isPowerFrame_powerFrame (s : State) : isPowerFrame (powerFrame s) = true := by
  have hon : ∀ m : BitVec 2, isPowerFrame [0x81#8 ||| (m.setWidth 8 <<< 1)] = true := by decide
  unfold powerFrame
  split
  · exact hon s.blink
  · rfl

@[simp] theorem isPowerFrame_brightnessFrame (s : State) :
    isPowerFrame (brightnessFrame s) = false := by
  have h : ∀ v : BitVec 4, isPowerFrame [0xE0 ||| v.setWidth 8] = false := by decide
  exact h s.bright

@[simp] theorem isPowerFrame_rowFrame (r : Fin 8) (s : State) :
    isPowerFrame (rowFrame r s) = false := rfl

@[simp] theorem isPowerFrame_fullFrame (s : State) : isPowerFrame (fullFrame s) = false := rfl

@[simp] theorem isBrightnessFrame_powerFrame (s : State) :
    isBrightnessFrame (powerFrame s) = false := by
  have hon : ∀ m : BitVec 2, isBrightnessFrame [0x81#8 ||| (m.setWidth 8 <<< 1)] = false := by decide
  unfold powerFrame
  split
  · exact hon s.blink
  · rfl

@[simp] theorem isBrightnessFrame_brightnessFrame (s : State) :
    isBrightnessFrame (brightnessFrame s) = true := by
  have h : ∀ v : BitVec 4, isBrightnessFrame [0xE0 ||| v.setWidth 8] = true := by decide
  exact h s.bright

@[simp] theorem isBrightnessFrame_rowFrame (r : Fin 8) (s : State) :
    isBrightnessFrame (rowFrame r s) = false := rfl

@[simp] theorem isBrightnessFrame_fullFrame (s : State) :
    isBrightnessFrame (fullFrame s) = false := rfl

@[simp] theorem rowByteOf_rowFrame (r : Fin 8) (s : State) :
    rowByteOf r (rowFrame r s) = some (reverseBits (s.rows.read r.val)) := rfl

@[simp] theorem rowByteOf_fullFrame (r : Fin 8) (s : State) :
    rowByteOf r (fullFrame s) = some (reverseBits (s.rows.read r.val)) := by
  fin_cases r <;> rfl

/-! ### The shadow relation

The relation of R65 is one claim about the last write of a kind for each row, one for the power state
and one for the brightness. Each reads only its own register and the trace, so a proof of it stands
after a write to any other register. -/

/-- The trace has a write of kind `p`, and the bytes of the last one meet `Q`. -/
def LastCarries (p : List Byte → Bool) (Q : List Byte → Prop) (t : List Event) : Prop :=
  ∃ bytes res, lastWrite p t = some (bytes, res) ∧ Q bytes

theorem lastCarries_write {p : List Byte → Bool} {Q : List Byte → Prop} {t : List Event}
    {a : DeviceAddress} {bytes : List Byte} {res : TransportResult} (hp : p bytes = true)
    (hQ : Q bytes) : LastCarries p Q (t ++ [.write a bytes res]) :=
  ⟨bytes, res, by simp [hp], hQ⟩

theorem LastCarries.write_other {p : List Byte → Bool} {Q : List Byte → Prop} {t : List Event}
    {a : DeviceAddress} {bytes : List Byte} {res : TransportResult} (h : LastCarries p Q t)
    (hp : p bytes = false) : LastCarries p Q (t ++ [.write a bytes res]) := by
  simpa [LastCarries, hp] using h

/-- R65 (a) for one row. -/
def State.RowShadowed (r : Fin 8) (s : State) : Prop :=
  LastCarries (coversRow r) (fun b => rowByteOf r b = some (reverseBits (s.rows.read r.val))) s.trace

/-- R65 (b). -/
def State.PowerShadowed (s : State) : Prop := LastCarries isPowerFrame (· = powerFrame s) s.trace

/-- R65 (c). -/
def State.BrightnessShadowed (s : State) : Prop :=
  LastCarries isBrightnessFrame (· = brightnessFrame s) s.trace

theorem State.shadowsTrace_iff (s : State) : s.ShadowsTrace ↔
    (s.life = .ready → (∀ r, s.RowShadowed r) ∧ s.PowerShadowed ∧ s.BrightnessShadowed) := by
  simp [State.ShadowsTrace, State.RowShadowed, State.PowerShadowed, State.BrightnessShadowed,
    LastCarries, powerFrame_eq, brightnessFrame]

/-- A row's claim reads its own row and the trace only. -/
theorem State.RowShadowed.setRows {r : Fin 8} {s : State} {m : Memory} (h : s.RowShadowed r)
    (hm : m.read r.val = s.rows.read r.val) : (s.setRows m).RowShadowed r := by
  simpa [State.RowShadowed, hm] using h

@[simp] theorem State.shadowsTrace_respond {st : Status} {s : State} :
    (s.respond st).ShadowsTrace ↔ s.ShadowsTrace := by
  unfold State.ShadowsTrace
  simp only [State.respond_trace, lastWrite_response]
  rfl

/-! An emission keeps the claims its frame does not carry and establishes those it does. -/

theorem State.shadowsTrace_emitted_power {s : State} (hrow : ∀ r, s.RowShadowed r)
    (hbright : s.BrightnessShadowed) : (s.emitted powerFrame).ShadowsTrace :=
  State.shadowsTrace_respond.2 <| (State.shadowsTrace_iff _).2 fun _ =>
    ⟨fun r => (hrow r).write_other (by simp), lastCarries_write (by simp) rfl,
      hbright.write_other (by simp)⟩

theorem State.shadowsTrace_emitted_brightness {s : State} (hrow : ∀ r, s.RowShadowed r)
    (hpower : s.PowerShadowed) : (s.emitted brightnessFrame).ShadowsTrace :=
  State.shadowsTrace_respond.2 <| (State.shadowsTrace_iff _).2 fun _ =>
    ⟨fun r => (hrow r).write_other (by simp), hpower.write_other (by simp),
      lastCarries_write (by simp) rfl⟩

theorem State.shadowsTrace_emitted_row {s : State} {r : Fin 8}
    (hrow : ∀ r', r' ≠ r → s.RowShadowed r') (hpower : s.PowerShadowed)
    (hbright : s.BrightnessShadowed) : (s.emitted (rowFrame r)).ShadowsTrace := by
  refine State.shadowsTrace_respond.2 <| (State.shadowsTrace_iff _).2 fun _ =>
    ⟨fun r' => ?_, hpower.write_other (by simp), hbright.write_other (by simp)⟩
  by_cases hr : r' = r
  · subst hr
    exact lastCarries_write (by simp) (rowByteOf_rowFrame _ _)
  · exact (hrow r' hr).write_other (by simp [Ne.symm hr])

theorem State.shadowsTrace_emitted_full {s : State} (hpower : s.PowerShadowed)
    (hbright : s.BrightnessShadowed) : (s.emitted fullFrame).ShadowsTrace :=
  State.shadowsTrace_respond.2 <| (State.shadowsTrace_iff _).2 fun _ =>
    ⟨fun _ => lastCarries_write (by simp) (rowByteOf_fullFrame _ _),
      hpower.write_other (by simp), hbright.write_other (by simp)⟩

/-- Every completed command in READY keeps the shadow relation. A blink mode latched while off is not
in the power frame, which is `0x80` whatever the mode. -/
theorem Performed.shadowsTrace {s t : State} (ht : Performed s t) (hl : s.life = .ready)
    (h : s.ShadowsTrace) : t.ShadowsTrace := by
  obtain ⟨hrow, hpower, hbright⟩ := (State.shadowsTrace_iff s).1 h hl
  cases ht with
  | rejected => exact State.shadowsTrace_respond.2 h
  | power b => exact State.shadowsTrace_emitted_power (s := s.setOn b) hrow hbright
  | brightness v => exact State.shadowsTrace_emitted_brightness (s := s.setBright v) hrow hpower
  | blinkShown m => exact State.shadowsTrace_emitted_power (s := s.setBlink m) hrow hbright
  | blinkLatched m hoff =>
    have hsame : powerFrame (s.setBlink m) = powerFrame s := by simp [powerFrame, hoff]
    have hpower : (s.setBlink m).PowerShadowed := by rwa [State.PowerShadowed, hsame]
    exact State.shadowsTrace_respond.2 ((State.shadowsTrace_iff _).2 fun _ => ⟨hrow, hpower, hbright⟩)
  | row r m _ hother =>
    exact State.shadowsTrace_emitted_row (s := s.setRows m)
      (fun r' hr => (hrow r').setRows (hother _ (Fin.val_ne_of_ne hr))) hpower hbright
  | buffer m => exact State.shadowsTrace_emitted_full (s := s.setRows m) hpower hbright

/-- W2, W3 and W4 of a reset carry the brightness, every row and the power state, whatever the trace
held before. -/
theorem State.resetDone_shadowsTrace (a : DeviceAddress) (b : BitVec 4) (s : State) :
    (s.resetDone a b).ShadowsTrace := by
  have hbright₃ : (s.resetW3 a b).BrightnessShadowed := lastCarries_write (by simp) rfl
  have hrow (r : Fin 8) : (s.resetW4 a b).RowShadowed r :=
    lastCarries_write (by simp) (rowByteOf_fullFrame r (s.resetW3 a b))
  have hbright₄ : (s.resetW4 a b).BrightnessShadowed := hbright₃.write_other (by simp)
  have hemitted : (((s.resetW4 a b).setLife .ready).emitted powerFrame).ShadowsTrace :=
    State.shadowsTrace_emitted_power hrow hbright₄
  exact State.shadowsTrace_respond.2 (State.shadowsTrace_respond.1 hemitted)

/-- A reset sequence ends outside READY, or completes. -/
theorem resetBlock_next {a : DeviceAddress} {b : BitVec 4} {s t : State}
    (h : resetBlock a b s = .next t) : t.life = .failed ∨ t = s.resetDone a b := by
  rw [resetBlock_eq] at h
  cases h
  split
  · exact .inl rfl
  split
  · exact .inl rfl
  split
  · exact .inl rfl
  split
  · exact .inl rfl
  · exact .inr rfl

/-- Settles O47: by what a step can do; a reset starts the relation anew. -/
theorem stepKeepsShadowOfTrace : Obligations.StepKeepsShadowOfTrace := by
  intro s t h ht
  obtain ⟨-, rfl⟩ | ⟨hl, hc⟩ | ⟨a, b, hr⟩ := step_next ht
  · exact h
  · exact hc.shadowsTrace hl h
  · obtain hfailed | rfl := resetBlock_next hr
    · simp [State.ShadowsTrace, hfailed]
    · exact State.resetDone_shadowsTrace a b s.takeAction

/-! ### The chip in agreement

The parts of `State.ChipAgrees`, in the shape of the shadow relation's parts: each says of the chip what
the last write of a kind `p` left there, if that write returned `ok`. -/

/-- If the last write of kind `p` returned `ok`, the chip meets `P`. -/
def State.ChipHolds (p : List Byte → Bool) (P : Chip → Prop) (s : State) : Prop :=
  ∀ bytes, lastWrite p s.trace = some (bytes, .ok) → P s.chip

/-- A write of kind `p` need only bring `P` about when its whole frame is delivered. -/
theorem State.chipHolds_afterWrite {p : List Byte → Bool} {P : Chip → Prop} {s : State}
    {frame : List Byte} (hp : p frame = true)
    (hP : P (s.chip.receive s.draws s.devaddr frame)) : (s.afterWrite frame).ChipHolds p P := by
  intro bytes h
  have hok : s.nextResult = .ok := by simp_all
  rwa [State.afterWrite_chip, State.deliveredBytes_of_ok _ hok]

/-- A write of another kind must keep `P` however much of its frame is delivered (R152). -/
theorem State.ChipHolds.write_other {p : List Byte → Bool} {P : Chip → Prop} {s : State}
    {frame : List Byte} (h : s.ChipHolds p P) (hp : p frame = false)
    (hP : ∀ bytes, bytes <+: frame → P s.chip → P (s.chip.receive s.draws s.devaddr bytes)) :
    (s.afterWrite frame).ChipHolds p P := by
  intro bytes hlast
  have hlast' : lastWrite p s.trace = some (bytes, .ok) := by simpa [hp] using hlast
  exact hP _ (State.deliveredBytes_prefix _ _) (h bytes hlast')

/-- Row `r` in display RAM (R65, R271). -/
def State.RowAgrees (r : Fin 8) (s : State) : Prop :=
  s.ChipHolds (coversRow r)
    (fun k => cellAt k.ram (2 * r.val) = some (reverseBits (s.rows.read r.val)))

/-- The display-on flag, and the blink mode while on (R65, R269). -/
def State.PowerAgrees (s : State) : Prop :=
  s.ChipHolds isPowerFrame (fun k => k.displayOn = s.on ∧ (s.on = true → k.blink = s.blink))

/-- The brightness (R65, R270). -/
def State.BrightnessAgrees (s : State) : Prop :=
  s.ChipHolds isBrightnessFrame (fun k => k.dimming = s.bright)

theorem State.chipAgrees_iff (s : State) : s.ChipAgrees ↔
    (s.life = .ready → s.chip.addr = s.devaddr →
      (∀ r, s.RowAgrees r) ∧ s.PowerAgrees ∧ s.BrightnessAgrees) := Iff.rfl

@[simp] theorem State.chipAgrees_respond {st : Status} {s : State} :
    (s.respond st).ChipAgrees ↔ s.ChipAgrees := by
  unfold State.ChipAgrees
  simp only [State.respond_trace, lastWrite_response]
  rfl

theorem State.RowAgrees.setRows {r : Fin 8} {s : State} {m : Memory} (h : s.RowAgrees r)
    (hm : m.read r.val = s.rows.read r.val) : (s.setRows m).RowAgrees r := by
  rw [State.RowAgrees, State.setRows_rows, hm]
  exact h

/-! What a frame, or a part of it, leaves in the chip (R268 to R271). -/

/-- A one-byte frame is delivered whole or not at all. -/
theorem Chip.receive_prefix_singleton {n : Nat} {d : DeviceAddress} {c : Chip} {x : Byte}
    {bytes : List Byte} (h : bytes <+: [x]) :
    Chip.receive n d bytes c = c ∨ Chip.receive n d bytes c = Chip.receive n d [x] c := by
  obtain rfl | ⟨_, rfl, hnil⟩ := List.prefix_cons_iff.1 h
  · exact .inl (Chip.receive_nil n d c)
  · rw [List.prefix_nil.1 hnil]
    exact .inr rfl

/-- A power frame sets the power state, and the blink mode to 0 while off (R269). -/
theorem Chip.receive_powerFrame (n : Nat) (d : DeviceAddress) (s : State) (c : Chip) :
    Chip.receive n d (powerFrame s) c =
      if d = c.addr then { c with displayOn := s.on, blink := if s.on then s.blink else 0 }
      else c := by
  unfold powerFrame
  cases s.on with
  | true => exact Chip.receive_power_on n d s.blink c
  | false => exact Chip.receive_power_off n d c

/-- A brightness frame sets the brightness (R270). -/
theorem Chip.receive_brightnessFrame (n : Nat) (d : DeviceAddress) (s : State) (c : Chip) :
    Chip.receive n d (brightnessFrame s) c =
      if d = c.addr then { c with dimming := s.bright } else c :=
  Chip.receive_brightness n d s.bright c

/-- A power frame writes neither the RAM nor the brightness. -/
theorem Chip.receive_powerFrame_keeps {n : Nat} {d : DeviceAddress} {c : Chip} {s : State}
    {bytes : List Byte} (h : bytes <+: powerFrame s) :
    (Chip.receive n d bytes c).ram = c.ram ∧ (Chip.receive n d bytes c).dimming = c.dimming := by
  rw [powerFrame_eq] at h
  obtain e | e := Chip.receive_prefix_singleton (n := n) (d := d) (c := c) h
  · rw [e]; exact ⟨rfl, rfl⟩
  · rw [e, ← powerFrame_eq, Chip.receive_powerFrame]
    split <;> exact ⟨rfl, rfl⟩

/-- A brightness frame writes neither the RAM nor the power state. -/
theorem Chip.receive_brightnessFrame_keeps {n : Nat} {d : DeviceAddress} {c : Chip} {s : State}
    {bytes : List Byte} (h : bytes <+: brightnessFrame s) :
    (Chip.receive n d bytes c).ram = c.ram ∧
    (Chip.receive n d bytes c).displayOn = c.displayOn ∧
    (Chip.receive n d bytes c).blink = c.blink := by
  obtain e | e := Chip.receive_prefix_singleton (n := n) (d := d) (c := c) h
  · rw [e]; exact ⟨rfl, rfl, rfl⟩
  · rw [e, ← brightnessFrame, Chip.receive_brightnessFrame]
    split <;> exact ⟨rfl, rfl, rfl⟩

/-- A frame that begins with a RAM address writes neither the power state nor the brightness, even
where only its beginning arrives. -/
theorem Chip.receive_prefix_data_keeps {n : Nat} {d : DeviceAddress} {c : Chip}
    {frame bytes : List Byte} (hframe : ∀ p ∈ frame.head?, p.toNat < 16) (h : bytes <+: frame) :
    (Chip.receive n d bytes c).displayOn = c.displayOn ∧
    (Chip.receive n d bytes c).blink = c.blink ∧
    (Chip.receive n d bytes c).dimming = c.dimming := by
  obtain ⟨-, hon, hblink, hdim⟩ := Chip.receive_data_keeps n d c (bytes := bytes) fun p hp =>
    hframe p (head?_take (List.prefix_iff_eq_take.1 h ▸ hp))
  exact ⟨hon, hblink, hdim⟩

/-! The parts an emission's frame does not carry are kept, whatever was delivered of it. -/

theorem State.RowAgrees.afterWrite_power {r : Fin 8} {s : State} (h : s.RowAgrees r) :
    (s.afterWrite (powerFrame s)).RowAgrees r :=
  h.write_other (by simp) fun _ hb hk => by rwa [(Chip.receive_powerFrame_keeps hb).1]

theorem State.BrightnessAgrees.afterWrite_power {s : State} (h : s.BrightnessAgrees) :
    (s.afterWrite (powerFrame s)).BrightnessAgrees :=
  h.write_other (by simp) fun _ hb hk => (Chip.receive_powerFrame_keeps hb).2.trans hk

theorem State.RowAgrees.afterWrite_brightness {r : Fin 8} {s : State} (h : s.RowAgrees r) :
    (s.afterWrite (brightnessFrame s)).RowAgrees r :=
  h.write_other (by simp) fun _ hb hk => by rwa [(Chip.receive_brightnessFrame_keeps hb).1]

theorem State.PowerAgrees.afterWrite_brightness {s : State} (h : s.PowerAgrees) :
    (s.afterWrite (brightnessFrame s)).PowerAgrees :=
  h.write_other (by simp) fun _ hb hk => by
    obtain ⟨-, hon, hblink⟩ := Chip.receive_brightnessFrame_keeps hb
    rwa [hon, hblink]

theorem State.RowAgrees.afterWrite_row {r r' : Fin 8} {s : State} (h : s.RowAgrees r')
    (hr : r' ≠ r) : (s.afterWrite (rowFrame r s)).RowAgrees r' :=
  h.write_other (by simp [Ne.symm hr]) fun bytes hb hk => by
    rw [List.prefix_iff_eq_take.1 hb, Chip.receive_row_other _ _ _ _ _ _ (by omega)]
    exact hk

theorem State.PowerAgrees.afterWrite_data {s : State} {frame : List Byte} (h : s.PowerAgrees)
    (hp : isPowerFrame frame = false) (hframe : ∀ p ∈ frame.head?, p.toNat < 16) :
    (s.afterWrite frame).PowerAgrees :=
  h.write_other hp fun _ hb hk => by
    obtain ⟨hon, hblink, -⟩ := Chip.receive_prefix_data_keeps hframe hb
    rwa [hon, hblink]

theorem State.BrightnessAgrees.afterWrite_data {s : State} {frame : List Byte}
    (h : s.BrightnessAgrees) (hp : isBrightnessFrame frame = false)
    (hframe : ∀ p ∈ frame.head?, p.toNat < 16) : (s.afterWrite frame).BrightnessAgrees :=
  h.write_other hp fun _ hb hk => (Chip.receive_prefix_data_keeps hframe hb).2.2.trans hk

/-! The parts its frame carries are established, at a chip at `DEVADDR`. -/

theorem State.powerAgrees_afterWrite {s : State} (ha : s.chip.addr = s.devaddr) :
    (s.afterWrite (powerFrame s)).PowerAgrees :=
  State.chipHolds_afterWrite (by simp) <| by
    rw [Chip.receive_powerFrame, if_pos ha.symm]
    exact ⟨rfl, fun hon => if_pos hon⟩

theorem State.brightnessAgrees_afterWrite {s : State} (ha : s.chip.addr = s.devaddr) :
    (s.afterWrite (brightnessFrame s)).BrightnessAgrees :=
  State.chipHolds_afterWrite (by simp) <| by
    rw [Chip.receive_brightnessFrame, if_pos ha.symm]
    rfl

theorem State.rowAgrees_afterWrite_row {s : State} (ha : s.chip.addr = s.devaddr) (r : Fin 8) :
    (s.afterWrite (rowFrame r s)).RowAgrees r :=
  State.chipHolds_afterWrite (by simp) (Chip.receive_row _ r s ha.symm)

theorem State.rowAgrees_afterWrite_full {s : State} (ha : s.chip.addr = s.devaddr) (r : Fin 8) :
    (s.afterWrite (fullFrame s)).RowAgrees r :=
  State.chipHolds_afterWrite (by simp) (Chip.receive_full _ s ha.symm r)

/-! An emission keeps the parts its frame does not carry and establishes those it does. -/

theorem State.chipAgrees_emitted_power {s : State} (ha : s.chip.addr = s.devaddr)
    (hrow : ∀ r, s.RowAgrees r) (hbright : s.BrightnessAgrees) :
    (s.emitted powerFrame).ChipAgrees :=
  State.chipAgrees_respond.2 fun _ _ =>
    ⟨fun r => (hrow r).afterWrite_power, State.powerAgrees_afterWrite ha, hbright.afterWrite_power⟩

theorem State.chipAgrees_emitted_brightness {s : State} (ha : s.chip.addr = s.devaddr)
    (hrow : ∀ r, s.RowAgrees r) (hpower : s.PowerAgrees) :
    (s.emitted brightnessFrame).ChipAgrees :=
  State.chipAgrees_respond.2 fun _ _ =>
    ⟨fun r => (hrow r).afterWrite_brightness, hpower.afterWrite_brightness,
      State.brightnessAgrees_afterWrite ha⟩

theorem State.chipAgrees_emitted_row {s : State} {r : Fin 8} (ha : s.chip.addr = s.devaddr)
    (hrow : ∀ r', r' ≠ r → s.RowAgrees r') (hpower : s.PowerAgrees) (hbright : s.BrightnessAgrees) :
    (s.emitted (rowFrame r)).ChipAgrees := by
  refine State.chipAgrees_respond.2 fun _ _ =>
    ⟨fun r' => ?_, hpower.afterWrite_data (by simp) (rowFrame_head r s),
      hbright.afterWrite_data (by simp) (rowFrame_head r s)⟩
  by_cases hr : r' = r
  · subst hr
    exact State.rowAgrees_afterWrite_row ha r'
  · exact (hrow r' hr).afterWrite_row hr

theorem State.chipAgrees_emitted_full {s : State} (ha : s.chip.addr = s.devaddr)
    (hpower : s.PowerAgrees) (hbright : s.BrightnessAgrees) :
    (s.emitted fullFrame).ChipAgrees :=
  State.chipAgrees_respond.2 fun _ _ =>
    ⟨State.rowAgrees_afterWrite_full ha, hpower.afterWrite_data (by simp) (fullFrame_head s),
      hbright.afterWrite_data (by simp) (fullFrame_head s)⟩

theorem Performed.chip_addr {s t : State} (ht : Performed s t) : t.chip.addr = s.chip.addr := by
  cases ht <;> simp

theorem Performed.devaddr {s t : State} (ht : Performed s t) : t.devaddr = s.devaddr := by
  cases ht <;> rfl

/-- Every completed command in READY keeps the agreement. A blink mode latched while off need not be
the chip's. -/
theorem Performed.chipAgrees {s t : State} (ht : Performed s t) (hl : s.life = .ready)
    (h : s.ChipAgrees) : t.ChipAgrees := by
  by_cases ha : s.chip.addr = s.devaddr
  · obtain ⟨hrow, hpower, hbright⟩ := (State.chipAgrees_iff s).1 h hl ha
    cases ht with
    | rejected => exact State.chipAgrees_respond.2 h
    | power b => exact State.chipAgrees_emitted_power (s := s.setOn b) ha hrow hbright
    | brightness v => exact State.chipAgrees_emitted_brightness (s := s.setBright v) ha hrow hpower
    | blinkShown m => exact State.chipAgrees_emitted_power (s := s.setBlink m) ha hrow hbright
    | blinkLatched m hoff =>
      have hpower : (s.setBlink m).PowerAgrees := fun bytes hlast =>
        ⟨(hpower bytes hlast).1, fun hon => absurd hon (by simp [hoff])⟩
      exact State.chipAgrees_respond.2 fun _ _ => ⟨hrow, hpower, hbright⟩
    | row r m _ hother =>
      exact State.chipAgrees_emitted_row (s := s.setRows m) ha
        (fun r' hr => (hrow r').setRows (hother _ (Fin.val_ne_of_ne hr))) hpower hbright
    | buffer m => exact State.chipAgrees_emitted_full (s := s.setRows m) ha hpower hbright
  · intro _ ha'
    rw [ht.chip_addr, ht.devaddr] at ha'
    exact absurd ha' ha

/-! A reset writes to its own address, and no write moves the chip. -/

theorem State.resetW2_chip_addr (a : DeviceAddress) (b : BitVec 4) (s : State) :
    (s.resetW2 a b).chip.addr = s.chip.addr :=
  Chip.receive_addr _ _ _ _

theorem State.resetW3_chip_addr (a : DeviceAddress) (b : BitVec 4) (s : State) :
    (s.resetW3 a b).chip.addr = s.chip.addr :=
  (Chip.receive_addr _ _ _ _).trans (s.resetW2_chip_addr a b)

theorem State.resetW4_chip_addr (a : DeviceAddress) (b : BitVec 4) (s : State) :
    (s.resetW4 a b).chip.addr = s.chip.addr :=
  (Chip.receive_addr _ _ _ _).trans (s.resetW3_chip_addr a b)

theorem State.resetDone_chip_addr (a : DeviceAddress) (b : BitVec 4) (s : State) :
    (s.resetDone a b).chip.addr = s.chip.addr :=
  (Chip.receive_addr _ _ _ _).trans (s.resetW4_chip_addr a b)

/-- W2, W3 and W4 of a reset bring the chip into agreement, whatever it held before. -/
theorem State.resetDone_chipAgrees (a : DeviceAddress) (b : BitVec 4) (s : State) :
    (s.resetDone a b).ChipAgrees := by
  intro hl ha'
  have ha : s.chip.addr = a := (s.resetDone_chip_addr a b).symm.trans ha'
  have hbright₃ : (s.resetW3 a b).BrightnessAgrees :=
    State.brightnessAgrees_afterWrite ((s.resetW2_chip_addr a b).trans ha)
  have hrow (r : Fin 8) : (s.resetW4 a b).RowAgrees r :=
    State.rowAgrees_afterWrite_full ((s.resetW3_chip_addr a b).trans ha) r
  have hbright₄ : (s.resetW4 a b).BrightnessAgrees :=
    hbright₃.afterWrite_data (by simp) (fullFrame_head _)
  have hemitted : (((s.resetW4 a b).setLife .ready).emitted powerFrame).ChipAgrees :=
    State.chipAgrees_emitted_power ((s.resetW4_chip_addr a b).trans ha) hrow hbright₄
  exact State.chipAgrees_respond.2 (State.chipAgrees_respond.1 hemitted) hl ha'

/-- Settles O49: by what a step can do; a reset starts the agreement anew. -/
theorem stepKeepsChipAgreement : Obligations.StepKeepsChipAgreement := by
  intro s t h ht
  obtain ⟨-, rfl⟩ | ⟨hl, hc⟩ | ⟨a, b, hr⟩ := step_next ht
  · exact h
  · exact hc.chipAgrees hl h
  · obtain hfailed | rfl := resetBlock_next hr
    · intro hready
      simp [hfailed] at hready
    · exact State.resetDone_chipAgrees a b s.takeAction

/-! ### The buffer commands' frames -/

/-- A whole-buffer or column command updates `ROWS` and emits the full frame (R200). -/
theorem exec_next_fullFrame {i : Instr} {s t : State}
    (hi : (∃ b, i = .set b) ∨ i = .clear ∨ (∃ c v, i = .setColumn c v) ∨ ∃ c, i = .clearColumn c)
    (h : exec i s = .next t) : ∃ m, t = (s.setRows m).emitted fullFrame := by
  obtain ⟨b, rfl⟩ | rfl | ⟨c, v, rfl⟩ | ⟨c, rfl⟩ := hi
  · obtain ⟨-, h⟩ := whenReady_next h
    cases h; exact ⟨_, rfl⟩
  · obtain ⟨-, h⟩ := whenReady_next h
    cases h; exact ⟨_, rfl⟩
  · obtain ⟨-, h⟩ := whenReady_next h
    obtain ⟨_, h⟩ := withCoordinate_next h
    cases h; exact ⟨_, rfl⟩
  · obtain ⟨-, h⟩ := whenReady_next h
    obtain ⟨_, h⟩ := withCoordinate_next h
    cases h; exact ⟨_, rfl⟩

/-- Settles O52: the whole full frame is delivered, and stores every row. -/
theorem fullFrameResynchronisesTheChip : Obligations.FullFrameResynchronisesTheChip := by
  intro i s t hi h hok ha r
  obtain ⟨m, rfl⟩ := exec_next_fullFrame hi h
  have hok' : (s.setRows m).nextResult = .ok := (State.nextResult_eq_resultAt s).trans hok
  rw [State.emitted_chip, State.deliveredBytes_of_ok _ hok']
  exact Chip.receive_full _ (s.setRows m) ha.symm r

/-- A row or pixel command updates its own row and emits that row's frame (R200). -/
theorem exec_next_rowFrame {i : Instr} {s t : State}
    (hi : (∃ r v, i = .setRow r v) ∨ (∃ r, i = .clearRow r) ∨ (∃ r c, i = .setPixel r c) ∨
      ∃ r c, i = .clearPixel r c)
    (h : exec i s = .next t) : ∃ (r : Fin 8) (m : Memory),
      (∀ a, a ≠ r.val → m.read a = s.rows.read a) ∧ t = (s.setRows m).emitted (rowFrame r) := by
  obtain ⟨r, v, rfl⟩ | ⟨r, rfl⟩ | ⟨r, c, rfl⟩ | ⟨r, c, rfl⟩ := hi
  · obtain ⟨-, h⟩ := whenReady_next h
    obtain ⟨_, h⟩ := withCoordinate_next h
    cases h
    exact ⟨_, _, fun a hne => by rw [read_fbSetRow, if_neg hne], rfl⟩
  · obtain ⟨-, h⟩ := whenReady_next h
    obtain ⟨_, h⟩ := withCoordinate_next h
    cases h
    exact ⟨_, _, fun a hne => by rw [read_fbClearRow, if_neg hne], rfl⟩
  · obtain ⟨-, h⟩ := whenReady_next h
    obtain ⟨_, h⟩ := withCoordinate_next h
    obtain ⟨_, h⟩ := withCoordinate_next h
    cases h
    exact ⟨_, _, fun a hne => by rw [read_fbSetPixel, if_neg hne], rfl⟩
  · obtain ⟨-, h⟩ := whenReady_next h
    obtain ⟨_, h⟩ := withCoordinate_next h
    obtain ⟨_, h⟩ := withCoordinate_next h
    cases h
    exact ⟨_, _, fun a hne => by rw [read_fbClearPixel, if_neg hne], rfl⟩

/-- In READY a legal instruction completes (R170). -/
theorem exec_of_wellFormed {i : Instr} {s : State} (hl : s.life = .ready) (hw : i.WellFormed) :
    ∃ t, exec i s = .next t := by
  obtain ⟨hcommand, hcoords, hvalue⟩ := hw
  have ho := exec_ready i hl
  generalize exec i s = o at ho
  cases ho with
  | illegal h => simp [h] at hcommand
  | fault _ h => simp [h] at hcoords
  | invalid _ _ h => simp [h] at hvalue
  | latched | emitted => exact ⟨_, rfl⟩

/-- A legal instruction that is no control command is a row, pixel, whole-buffer or column command. -/
theorem buffer_command_cases {i : Instr} (hcommand : i.notReserved = true)
    (hi : i ≠ .on ∧ i ≠ .off ∧ (∀ x, i ≠ .setBrightness x) ∧ ∀ x, i ≠ .setBlinking x) :
    ((∃ r v, i = .setRow r v) ∨ (∃ r, i = .clearRow r) ∨ (∃ r c, i = .setPixel r c) ∨
      ∃ r c, i = .clearPixel r c) ∨
    ((∃ b, i = .set b) ∨ i = .clear ∨ (∃ c v, i = .setColumn c v) ∨ ∃ c, i = .clearColumn c) := by
  cases i <;> simp_all [Instr.notReserved]

/-! ### The wire bits -/

/-- In each row it covers, the frame carries the reversed row of `m`. -/
def CarriesRows (frame : List Byte) (m : Memory) : Prop :=
  ∀ r : Fin 8, coversRow r frame = true → rowByteOf r frame = some (reverseBits (m.read r.val))

theorem carriesRows_rowFrame (r : Fin 8) (s : State) : CarriesRows (rowFrame r s) s.rows := by
  intro r' hr
  obtain rfl : r = r' := by simpa using hr
  exact rowByteOf_rowFrame r s

theorem carriesRows_fullFrame (s : State) : CarriesRows (fullFrame s) s.rows :=
  fun r _ => rowByteOf_fullFrame r s

/-- The reversal puts pixel (r, c), bit 7-c of the row, on wire bit c (R51, R102). -/
theorem CarriesRows.wire_bit {frame : List Byte} {m : Memory} (h : CarriesRows frame m) {r : Fin 8}
    (hr : coversRow r frame = true) : ∃ wire, rowByteOf r frame = some wire ∧
      ∀ c < 8, wire.getLsbD c = (m.read r.val).getLsbD (7 - c) :=
  ⟨_, h r hr, fun c hc => getLsbD_reverseBits _ c hc⟩

/-- A buffer command adds its one write and the response to the trace (R59, R172). -/
theorem State.emitted_setRows_trace (m : Memory) (frame : State → List Byte) (s : State) :
    ((s.setRows m).emitted frame).trace = s.trace ++
      [.write s.devaddr (frame (s.setRows m)) (s.resultAt 0),
        .response (statusFor (s.resultAt 0))] := by
  simp [statusOf_eq, s.nextResult_eq_resultAt]

/-- Settles O54: a row command's frame covers the one row it may change, a full frame covers all. -/
theorem wireBitsCarryPixels : Obligations.WireBitsCarryPixels := by
  intro i s hl hw hi
  obtain ⟨t, ht⟩ := exec_of_wellFormed hl hw
  obtain hrow | hfull := buffer_command_cases hw.1 hi
  · obtain ⟨r, m, hother, rfl⟩ := exec_next_rowFrame hrow ht
    refine ⟨_, _, ht, State.emitted_setRows_trace m _ s, ⟨r, by simp⟩, fun r' hchanged => ?_,
      fun _ => (carriesRows_rowFrame r (s.setRows m)).wire_bit⟩
    have hr : r' = r := Fin.ext (not_imp_comm.1 (hother r'.val) hchanged)
    simp [hr]
  · obtain ⟨m, rfl⟩ := exec_next_fullFrame hfull ht
    exact ⟨_, _, ht, State.emitted_setRows_trace m _ s, ⟨0, by simp⟩, fun _ _ => by simp,
      fun _ => (carriesRows_fullFrame (s.setRows m)).wire_bit⟩

end Sys2Proof.Machine
end

section
/-! PROOFS. The command encoding (30_encoding.md): the decoder in closed form, its inverse (R74, R83), the
bitmap operand (R71), and the opcode map (R73). -/

namespace Sys2Proof

/-! ### The decoder in closed form

Only a word's selector says which of its fields must be zero, and which instruction it is if they are. -/

/-- The selectors of the commands without an index operand: A must be zero (R72, R73). -/
def selectorsWithoutA : List (BitVec 4) := [0x1, 0x2, 0x3, 0x4, 0x5, 0x6]

/-- The selectors of the commands without a data operand: D must be zero (R72, R73). -/
def selectorsWithoutD : List (BitVec 4) := [0x1, 0x2, 0x5, 0x6, 0x8, 0xC]

/-- Every must-be-zero field of the word is zero (R76). -/
abbrev MustBeZeroHolds (w : CommandWord) : Prop :=
  (fieldOp w ∈ selectorsWithoutA → fieldA w = 0) ∧ (fieldOp w ∈ selectorsWithoutD → fieldD w = 0)

/-- The instruction of the word's selector, with the word's fields as its operands (R73). -/
def Instr.ofWord (w : CommandWord) (bmp : Bitmap) : Instr :=
  match (fieldOp w).toNat with
  | 0x0 => .reservedOp0 (fieldA w) (fieldD w)
  | 0x1 => .on
  | 0x2 => .off
  | 0x3 => .setBrightness (fieldD w)
  | 0x4 => .setBlinking (fieldD w)
  | 0x5 => .set bmp
  | 0x6 => .clear
  | 0x7 => .setRow (fieldA w) (fieldD w)
  | 0x8 => .clearRow (fieldA w)
  | 0x9 => .setPixel (fieldA w) (fieldD w)
  | 0xA => .clearPixel (fieldA w) (fieldD w)
  | 0xB => .setColumn (fieldA w) (fieldD w)
  | 0xC => .clearColumn (fieldA w)
  | 0xD => .reservedOpD (fieldA w) (fieldD w)
  | 0xE => .reservedOpE (fieldA w) (fieldD w)
  | _ => .reservedOpF (fieldA w) (fieldD w)

/-- The decoder accepts the words whose must-be-zero fields are zero (R74, R76). -/
theorem decode_eq (w : CommandWord) (bmp : Bitmap) :
    decode w bmp =
      if MustBeZeroHolds w then .ok (.ofWord w bmp) else .error (.mustBeZero w) := by
  rcases selector_cases (fieldOp w) with
    h | h | h | h | h | h | h | h | h | h | h | h | h | h | h | h <;>
    simp [decode, Instr.ofWord, acceptIf, MustBeZeroHolds, selectorsWithoutA, selectorsWithoutD, h]

theorem decode_eq_ok_iff {w : CommandWord} {bmp : Bitmap} {i : Instr} :
    decode w bmp = .ok i ↔ MustBeZeroHolds w ∧ .ofWord w bmp = i := by
  rw [decode_eq]
  by_cases h : MustBeZeroHolds w
  · rw [if_pos h, and_iff_right h, Except.ok.injEq]
  · rw [if_neg h]
    exact ⟨nofun, fun hi => absurd hi.1 h⟩

theorem decode_eq_error_iff {w : CommandWord} {bmp : Bitmap} :
    decode w bmp = .error (.mustBeZero w) ↔ ¬ MustBeZeroHolds w := by
  simp [decode_eq]

/-! ### Decoding and encoding are inverse -/

/-- The encoder writes zero in every field the command has no operand for. -/
theorem mustBeZeroHolds_encode (i : Instr) : MustBeZeroHolds (encode i) := by
  cases i <;> simp [MustBeZeroHolds, encode, selectorsWithoutA, selectorsWithoutD]

/-- The encoder writes every operand where the decoder reads it. -/
theorem ofWord_encode (i : Instr) : Instr.ofWord (encode i) (encodeBitmap i) = i := by
  cases i <;> simp [Instr.ofWord, encode, encodeBitmap]

/-- Settles O20: the encoded word has zero must-be-zero fields and holds the operands. -/
theorem decodeOfEncode : Obligations.DecodeOfEncode := fun i =>
  decode_eq_ok_iff.2 ⟨mustBeZeroHolds_encode i, ofWord_encode i⟩

/-- An accepted word holds nothing but the operands of its instruction. -/
theorem encode_ofWord {w : CommandWord} (h : MustBeZeroHolds w) (bmp : Bitmap) :
    encode (.ofWord w bmp) = w := by
  obtain ⟨hA, hD⟩ := h
  rw [← packWord_fields (encode _), ← packWord_fields w, packWord_inj]
  rcases selector_cases (fieldOp w) with
    h | h | h | h | h | h | h | h | h | h | h | h | h | h | h | h <;>
    simp_all [Instr.ofWord, encode, selectorsWithoutA, selectorsWithoutD]

/-- Settles O21: the fields the instruction does not hold are zero in an accepted word. -/
theorem encodeOfDecode : Obligations.EncodeOfDecode := by
  intro w bmp i h
  obtain ⟨hzero, rfl⟩ := decode_eq_ok_iff.1 h
  exact encode_ofWord hzero bmp

/-- The bitmap is an operand of `set` only (R71). -/
theorem ofWord_bitmap_cases (w : CommandWord) (bmp bmp' : Bitmap) :
    Instr.ofWord w bmp = .ofWord w bmp' ∨ Instr.ofWord w bmp = .set bmp := by
  by_cases hset : fieldOp w = 0x5
  · right
    simp [Instr.ofWord, hset]
  · left
    have hne : (fieldOp w).toNat ≠ 5 := fun h => hset (BitVec.eq_of_toNat_eq h)
    unfold Instr.ofWord
    split
    case h_6 h => exact absurd h hne
    all_goals rfl

/-- Settles O25: only `set` has the bitmap as an operand, and its word is 0x5000. -/
theorem bitmapOnlyMattersToSet : Obligations.BitmapOnlyMattersToSet := by
  intro w bmp bmp'
  by_cases hzero : MustBeZeroHolds w
  · obtain hsame | hset := ofWord_bitmap_cases w bmp bmp'
    · left
      rw [decode_eq, decode_eq, hsame]
    · right
      refine ⟨?_, decode_eq_ok_iff.2 ⟨hzero, hset⟩⟩
      rw [← encode_ofWord hzero bmp, hset]
      rfl
  · left
    rw [decode_eq_error_iff.2 hzero, decode_eq_error_iff.2 hzero]

/-! ### The opcode map -/

/-- The row of a selector as (match, mask): the mask covers the selector and the must-be-zero fields,
and the match is the selector (R73). -/
def opcodeRow (o : BitVec 4) : CommandWord × CommandWord :=
  (packWord o 0 0, packWord 0xF (if o ∈ selectorsWithoutA then 0xF else 0)
    (if o ∈ selectorsWithoutD then 0xFF else 0))

/-- The rows of the opcode map are those of the sixteen selectors, in order. -/
theorem opcodeRows_eq :
    opcodeRows = (List.finRange 16).map (fun o => opcodeRow (BitVec.ofFin o)) := by
  rfl

theorem mem_opcodeRows {row : CommandWord × CommandWord} :
    row ∈ opcodeRows ↔ ∃ o, opcodeRow o = row := by
  simp only [opcodeRows_eq, List.mem_map, List.mem_finRange, true_and]
  exact ⟨fun ⟨o, h⟩ => ⟨_, h⟩, fun ⟨o, h⟩ => ⟨o.toFin, h⟩⟩

/-- The instruction of a word stands in the row of the word's selector. -/
theorem ofWord_row (w : CommandWord) (bmp : Bitmap) :
    ((Instr.ofWord w bmp).pattern, (Instr.ofWord w bmp).mask) = opcodeRow (fieldOp w) := by
  rcases selector_cases (fieldOp w) with
    h | h | h | h | h | h | h | h | h | h | h | h | h | h | h | h <;>
    simp [Instr.ofWord, h, Instr.pattern, Instr.mask] <;> decide

/-- A field under a mask of all ones or of none. -/
theorem and_ite_allOnes_eq_zero {n : Nat} (x : BitVec n) (p : Prop) [Decidable p] :
    x &&& (if p then BitVec.allOnes n else 0) = 0 ↔ (p → x = 0) := by
  split <;> simp_all

/-- A word matches a row exactly when it has the row's selector and zero must-be-zero fields. -/
theorem and_mask_eq_match_iff (w : CommandWord) (o : BitVec 4) :
    w &&& (opcodeRow o).2 = (opcodeRow o).1 ↔ fieldOp w = o ∧ MustBeZeroHolds w := by
  have hA : (0xF : BitVec 4) = BitVec.allOnes 4 := rfl
  have hD : (0xFF : BitVec 8) = BitVec.allOnes 8 := rfl
  conv_lhs => rw [← packWord_fields w]
  simp only [opcodeRow, packWord_and, packWord_inj, hA, hD, BitVec.and_allOnes,
    and_ite_allOnes_eq_zero]
  exact and_congr_right (by rintro rfl; rfl)

/-- Settles O22: a word can match no row but that of its selector, and matches it exactly when the decoder
accepts it. -/
theorem decoderAgreesWithOpcodeMap : Obligations.DecoderAgreesWithOpcodeMap := by
  intro w bmp
  have hmatches (o : BitVec 4) := and_mask_eq_match_iff w o
  refine ⟨fun i h => ?_, fun row hrow hmatch => ?_, ?_⟩
  · obtain ⟨hzero, rfl⟩ := decode_eq_ok_iff.1 h
    have hmatch := (hmatches _).2 ⟨rfl, hzero⟩
    rw [← ofWord_row w bmp] at hmatch
    exact ⟨hmatch, mem_opcodeRows.2 ⟨_, (ofWord_row w bmp).symm⟩⟩
  · obtain ⟨o, rfl⟩ := mem_opcodeRows.1 hrow
    obtain ⟨rfl, hzero⟩ := (hmatches o).1 hmatch
    exact ⟨_, decode_eq_ok_iff.2 ⟨hzero, rfl⟩, Prod.ext_iff.1 (ofWord_row w bmp)⟩
  · rw [decode_eq_error_iff]
    constructor
    · intro hzero row hrow
      obtain ⟨o, rfl⟩ := mem_opcodeRows.1 hrow
      exact fun hmatch => hzero ((hmatches o).1 hmatch).2
    · exact fun h hzero => h _ (mem_opcodeRows.2 ⟨_, rfl⟩) ((hmatches _).2 ⟨rfl, hzero⟩)

end Sys2Proof
end

section
/-! PROOFS. The encodings on both sides of the block: the words that complete with ILLEGAL_COMMAND
(30_encoding.md R75, R76), and the frames a step may write (R80). -/

namespace Sys2Proof.Machine

open Sys2Proof

/-! ### Illegal words -/

/-- A presented command word is taken from the port and runs (R11). -/
theorem step_of_command {s : State} {w : CommandWord} {bmp : Bitmap} {rest : List HostAction}
    (hp : s.pending = .command w bmp :: rest) :
    step s = presentCommand w bmp { s with pending := rest } := by
  simp only [step, transact, hp, presentAction, State.takeAction, List.tail_cons]

/-- An illegal command in READY adds its status to the trace and nothing else (R242). -/
theorem illegalCommand_eq_onlyStatus {s : State} (hl : s.life = .ready) :
    illegalCommand s = onlyStatus .illegalCommand s :=
  illegalCommand_of_ready hl

/-- A must-be-zero violation is an illegal command, whatever the bitmap is. -/
theorem presentCommand_of_mustBeZero {w : CommandWord} (h : ¬ MustBeZeroHolds w) (bmp : Bitmap)
    (s : State) : presentCommand w bmp s = illegalCommand s := by
  simp only [presentCommand, decode_eq_error_iff.2 h]

/-- Settles O23: the decoder rejects the word, and a rejected word is an illegal command. -/
theorem mustBeZeroViolationIsIllegal : Obligations.MustBeZeroViolationIsIllegal := by
  intro s op a d bmp rest hl hp hviolation
  have hreject : ¬ MustBeZeroHolds (packWord op a d) := by
    rintro ⟨hA, hD⟩
    simp only [fieldOp_packWord, fieldA_packWord, fieldD_packWord] at hA hD
    obtain ⟨rfl | rfl | rfl | rfl, h⟩ | ⟨rfl | rfl, h⟩ | ⟨rfl | rfl, h⟩ := hviolation <;>
      simp_all [selectorsWithoutA, selectorsWithoutD]
  rw [step_of_command hp]
  exact (presentCommand_of_mustBeZero hreject bmp _).trans (illegalCommand_eq_onlyStatus hl)

/-- A word with a reserved selector is an illegal command, whatever its other bits are. -/
theorem presentCommand_of_reserved {op : BitVec 4}
    (h : op = 0x0 ∨ op = 0xD ∨ op = 0xE ∨ op = 0xF) (a : BitVec 4) (d : BitVec 8) (bmp : Bitmap)
    (s : State) : presentCommand (packWord op a d) bmp s = illegalCommand s := by
  have hzero : MustBeZeroHolds (packWord op a d) := by
    rw [MustBeZeroHolds, fieldOp_packWord]
    obtain rfl | rfl | rfl | rfl := h <;> exact ⟨nofun, nofun⟩
  simp only [presentCommand, decode_eq_ok_iff.2 ⟨hzero, rfl⟩]
  obtain rfl | rfl | rfl | rfl := h <;> simp only [Instr.ofWord, fieldOp_packWord] <;> rfl

/-- Settles O24: each reserved instruction is an illegal command, and so is each of their words. -/
theorem reservedSelectorsAreIllegal : Obligations.ReservedSelectorsAreIllegal := by
  intro s hl
  have hillegal := illegalCommand_eq_onlyStatus hl
  refine ⟨fun a d => ⟨hillegal, hillegal, hillegal, hillegal⟩, fun op a d bmp rest hp hop => ?_⟩
  rw [step_of_command hp]
  exact (presentCommand_of_reserved hop a d bmp _).trans (illegalCommand_eq_onlyStatus hl)

/-! ### The frames -/

/-- The bytes of one of the six frames: oscillator, power on, power off, brightness, row, full (R80). -/
def IsFrame (bytes : List Byte) : Prop :=
  bytes = [0x21] ∨ (∃ m : BitVec 2, bytes = [0x81#8 ||| (m.setWidth 8 <<< 1)]) ∨
    bytes = [0x80] ∨ (∃ v : BitVec 4, bytes = [0xE0 ||| v.setWidth 8]) ∨
    (∃ (r : Fin 8) (x : Byte), bytes = [BitVec.ofNat 8 (2 * r.val), reverseBits x]) ∨
    ∃ row : Fin 8 → Byte, bytes = fullFrameOf row

theorem isFrame_oscFrame (s : State) : IsFrame (oscFrame s) := .inl rfl

theorem isFrame_powerFrame (s : State) : IsFrame (powerFrame s) := by
  unfold powerFrame
  split
  · exact .inr (.inl ⟨s.blink, rfl⟩)
  · exact .inr (.inr (.inl rfl))

theorem isFrame_brightnessFrame (s : State) : IsFrame (brightnessFrame s) :=
  .inr (.inr (.inr (.inl ⟨s.bright, rfl⟩)))

theorem isFrame_rowFrame (r : Fin 8) (s : State) : IsFrame (rowFrame r s) :=
  .inr (.inr (.inr (.inr (.inl ⟨r, s.rows.read r.val, by rw [rowFrame, rowAddr_eq]⟩))))

theorem isFrame_fullFrame (s : State) : IsFrame (fullFrame s) :=
  .inr (.inr (.inr (.inr (.inr ⟨fun r => s.rows.read r.val, rfl⟩))))

/-- From `s` to `t` the trace grows, and every write added goes to `t`'s `DEVADDR` and carries one of
the six frames (R80, R151). It reads only the traces and `t.devaddr`, so it stands for `t` after a write
to any other register. -/
def AddsFrames (s t : State) : Prop :=
  ∃ es, t.trace = s.trace ++ es ∧
    ∀ a bytes res, Event.write a bytes res ∈ es → a = t.devaddr ∧ IsFrame bytes

theorem AddsFrames.refl (s : State) : AddsFrames s s := ⟨[], by simp, by simp⟩

theorem AddsFrames.respond {s t : State} (h : AddsFrames s t) (st : Status) :
    AddsFrames s (t.respond st) := by
  obtain ⟨es, htrace, hframes⟩ := h
  exact ⟨es ++ [.response st], by simp [htrace], by simpa using hframes⟩

theorem AddsFrames.afterWrite {s t : State} (h : AddsFrames s t) {frame : List Byte}
    (hframe : IsFrame frame) : AddsFrames s (t.afterWrite frame) := by
  obtain ⟨es, htrace, hframes⟩ := h
  refine ⟨es ++ [.write t.devaddr frame t.nextResult], by simp [htrace], fun a bytes res hmem => ?_⟩
  rcases List.mem_append.1 hmem with hold | hnew
  · exact hframes a bytes res hold
  · cases List.mem_singleton.1 hnew
    exact ⟨rfl, hframe⟩

theorem AddsFrames.emitted {s t : State} (h : AddsFrames s t) {frame : State → List Byte}
    (hframe : IsFrame (frame t)) : AddsFrames s (t.emitted frame) :=
  (h.afterWrite hframe).respond _

theorem AddsFrames.resetEnded {s t : State} (h : AddsFrames s t) {frame : State → List Byte}
    (hframe : IsFrame (frame t)) : AddsFrames s (t.resetEnded frame) :=
  AddsFrames.respond (t := (t.afterWrite (frame t)).unspecify.setLife .failed)
    (h.afterWrite hframe) .transportFailure

/-- A completed command emits a frame or none (R80). -/
theorem Performed.addsFrames {s t : State} (ht : Performed s t) : AddsFrames s t := by
  have h := AddsFrames.refl s
  cases ht with
  | rejected st => exact h.respond st
  | power b => exact .emitted (t := s.setOn b) h (isFrame_powerFrame _)
  | brightness v => exact .emitted (t := s.setBright v) h (isFrame_brightnessFrame _)
  | blinkShown m => exact .emitted (t := s.setBlink m) h (isFrame_powerFrame _)
  | blinkLatched m => exact h.respond .ok
  | row r m => exact .emitted (t := s.setRows m) h (isFrame_rowFrame r _)
  | buffer m => exact .emitted (t := s.setRows m) h (isFrame_fullFrame _)

/-- A reset sequence emits W1 to W4 up to its first failing write (R280, R282). -/
theorem resetBlock_addsFrames {a : DeviceAddress} {b : BitVec 4} {s t : State}
    (ht : resetBlock a b s = .next t) : AddsFrames s t := by
  have h1 : AddsFrames s (s.resetW1 a) := .refl (s.resetW1 a)
  have h2 : AddsFrames s (s.resetW2 a b) := h1.afterWrite (isFrame_oscFrame _)
  have h3 : AddsFrames s (s.resetW3 a b) := h2.afterWrite (isFrame_brightnessFrame _)
  have h4 : AddsFrames s (s.resetW4 a b) := h3.afterWrite (isFrame_fullFrame _)
  rw [resetBlock_eq] at ht
  cases ht
  split
  · exact h1.resetEnded (isFrame_oscFrame _)
  split
  · exact h2.resetEnded (isFrame_brightnessFrame _)
  split
  · exact h3.resetEnded (isFrame_fullFrame _)
  split
  · exact h4.resetEnded (isFrame_powerFrame _)
  · exact (h4.afterWrite (isFrame_powerFrame _)).respond .ok

/-- Settles O44: by what a step can do. -/
theorem everyWriteIsAFrameToTheDevice : Obligations.EveryWriteIsAFrameToTheDevice := by
  intro s t ht
  change AddsFrames s t
  obtain ⟨-, rfl⟩ | ⟨-, hc⟩ | ⟨a, b, hr⟩ := step_next ht
  · exact .refl t
  · exact hc.addsFrames
  · exact resetBlock_addsFrames (s := s.takeAction) hr

end Sys2Proof.Machine
end

section
/-! PROOFS. The laws of `reverseBits` (40_bit_transform.md R100, R101). Each follows from what its bits are
(`getLsbD_reverseBits`): bit k of the result is a bit of the operand, and k ↦ 7-k is its own inverse. -/

namespace Sys2Proof.Machine

open Sys2Proof

theorem reverseBits_involutive : Function.Involutive reverseBits := fun x =>
  byte_ext fun k hk => by
    have hback : 7 - (7 - k) = k := by omega
    rw [getLsbD_reverseBits _ k hk, getLsbD_reverseBits x (7 - k) (by omega), hback]

/-- The reversal permutes the bit indices, so it keeps the number of set bits. -/
theorem countP_getLsbD_reverseBits (x : Byte) :
    (List.range 8).countP (fun k => (reverseBits x).getLsbD k) =
      (List.range 8).countP (fun k => x.getLsbD k) := by
  have hindices : (List.range 8).map (7 - ·) = (List.range 8).reverse := by decide
  calc (List.range 8).countP (fun k => (reverseBits x).getLsbD k)
      = (List.range 8).countP (fun k => x.getLsbD (7 - k)) :=
        List.countP_congr fun k hk => by rw [getLsbD_reverseBits x k (List.mem_range.1 hk)]
    _ = ((List.range 8).map (7 - ·)).countP (fun k => x.getLsbD k) := List.countP_map.symm
    _ = (List.range 8).countP (fun k => x.getLsbD k) := by rw [hindices, List.countP_reverse]

/-- The reversal commutes with every operator `op` that acts on each bit by itself, as some `f`. -/
theorem reverseBits_bitwise {op : Byte → Byte → Byte} {f : Bool → Bool → Bool}
    (hop : ∀ x y : Byte, ∀ k < 8, (op x y).getLsbD k = f (x.getLsbD k) (y.getLsbD k)) (x y : Byte) :
    reverseBits (op x y) = op (reverseBits x) (reverseBits y) :=
  byte_ext fun k hk => by
    rw [getLsbD_reverseBits _ k hk, hop x y (7 - k) (by omega), hop _ _ k hk,
      getLsbD_reverseBits x k hk, getLsbD_reverseBits y k hk]

theorem reverseBits_or (x y : Byte) : reverseBits (x ||| y) = reverseBits x ||| reverseBits y :=
  reverseBits_bitwise (op := (· ||| ·)) (fun _ _ _ _ => BitVec.getLsbD_or) x y

theorem reverseBits_and (x y : Byte) : reverseBits (x &&& y) = reverseBits x &&& reverseBits y :=
  reverseBits_bitwise (op := (· &&& ·)) (fun _ _ _ _ => BitVec.getLsbD_and) x y

theorem reverseBits_xor (x y : Byte) : reverseBits (x ^^^ y) = reverseBits x ^^^ reverseBits y :=
  reverseBits_bitwise (op := (· ^^^ ·)) (fun _ _ _ _ => BitVec.getLsbD_xor) x y

/-- Complement is exclusive or with the byte of ones, which the reversal fixes. -/
theorem reverseBits_not (x : Byte) : reverseBits (~~~x) = ~~~reverseBits x := by
  have hones : reverseBits (BitVec.allOnes 8) = BitVec.allOnes 8 := by decide
  rw [← BitVec.xor_allOnes, reverseBits_xor, hones, BitVec.xor_allOnes]

/-- Settles O43: each law from the bits of the result. -/
theorem reverseBitsLaws : Obligations.ReverseBitsLaws :=
  ⟨getLsbD_reverseBits, reverseBits_involutive, reverseBits_involutive.bijective,
    countP_getLsbD_reverseBits,
    fun x y => ⟨reverseBits_or x y, reverseBits_and x y, reverseBits_xor x y⟩, reverseBits_not⟩

end Sys2Proof.Machine
end

section
/-! PROOFS. The command cycle and the control commands (43_controller_commands.md): what every instruction
keeps and adds (R170 to R174), what each control command does in READY (R180 to R187), and the two
sequences that pass through the off state (R181, R187). -/

namespace Sys2Proof.Machine

open Sys2Proof

/-! ### The command cycle -/

/-- Settles O9: the port takes the word, and the decoder's answer is what runs. -/
theorem stepRunsDecodedInstruction : Obligations.StepRunsDecodedInstruction := by
  intro s w b rest i hp hdecode
  simp only [step_of_command hp, presentCommand, hdecode]

/-- An instruction that answers a next state is one of the completing cases of `ReadyOutcome`. -/
theorem readyOutcome_of_exec_next {i : Instr} {s t : State} (h : exec i s = .next t) :
    ReadyOutcome i s (.next t) :=
  h ▸ exec_ready i (exec_next h).1

theorem Performed.keepsIdentity {s t : State} (ht : Performed s t) : KeepsIdentity s t := by
  cases ht <;> exact ⟨rfl, rfl, rfl, rfl⟩

theorem exec_keepsIdentity {i : Instr} {s t : State} (h : exec i s = .next t) : KeepsIdentity s t :=
  (exec_next h).2.keepsIdentity

theorem KeepsIdentity.trans {s t u : State} (hst : KeepsIdentity s t) (htu : KeepsIdentity t u) :
    KeepsIdentity s u := by
  obtain ⟨ha, hl, hc, hp⟩ := hst
  obtain ⟨ha', hl', hc', hp'⟩ := htu
  exact ⟨ha'.trans ha, hl'.trans hl, hc'.trans hc, hp'.trans hp⟩

/-- A command in READY leaves the block in READY. -/
theorem exec_next_life {i : Instr} {s t : State} (h : exec i s = .next t) : t.life = .ready :=
  (exec_keepsIdentity h).2.1.trans (exec_next h).1

/-- Settles O13: a legal command is latched or emitted, and its response is the last event. -/
theorem legalCommandsComplete : Obligations.LegalCommandsComplete := by
  intro i s hl hw
  obtain ⟨t, ht⟩ := exec_of_wellFormed hl hw
  refine ⟨t, ht, exec_next_life ht, ?_⟩
  obtain ⟨hcommand, hcoords, hvalue⟩ := hw
  cases readyOutcome_of_exec_next ht with
  | illegal h => simp [h] at hcommand
  | invalid _ _ h => simp [h] at hvalue
  | latched => simp
  | emitted s' =>
    cases hres : s'.nextResult with
    | ok => simp [hres, statusOf]
    | fail => simp [hres, statusOf]

/-- Settles O16: a rejected or latched command adds its response only, any other one write first. -/
theorem atMostOneFramePerCommand : Obligations.AtMostOneFramePerCommand := by
  intro i s t h
  cases readyOutcome_of_exec_next h with
  | illegal hres =>
    exact ⟨[], .illegalCommand, by simp, .inl rfl, by simp [Instr.WellFormed, hres]⟩
  | invalid _ _ hvalue =>
    exact ⟨[], .invalidArgument, by simp, .inl rfl, by simp [Instr.WellFormed, hvalue]⟩
  | latched m b hi hon =>
    exact ⟨[], .ok, by simp, .inl rfl, iff_of_true rfl (.inr ⟨⟨m, hi⟩, hon⟩)⟩
  | emitted s' frame hw hn hp =>
    refine ⟨[.write s.devaddr (frame s') s'.nextResult], statusOf s'.nextResult, ?_,
      .inr ⟨_, _, rfl⟩, iff_of_false (by simp) ?_⟩
    · rw [State.emitted_trace, hp.trace, hp.devaddr]
    · rintro (hnot | hlatched)
      · exact hnot hw
      · exact hn hlatched

/-! ### Registers after a command depend on registers only

R171 for two runs of one instruction from states that differ outside the registers, in particular in the
results scripted for the coming writes: each operation of a meaning leaves the same registers in both. -/

/-- The registers of the block, as `State` holds them, are the same in both states. -/
structure SameRegisters (s s' : State) : Prop where
  rows : s'.rows = s.rows
  on : s'.on = s.on
  blink : s'.blink = s.blink
  bright : s'.bright = s.bright
  devaddr : s'.devaddr = s.devaddr
  life : s'.life = s.life
  columnOrder : s'.columnOrder = s.columnOrder

/-- If the first outcome is a next state, so is the second, with the same registers. -/
def CompletesAlike (o o' : StepOutcome) : Prop :=
  ∀ t, o = .next t → ∃ u, o' = .next u ∧ SameRegisters t u

theorem SameRegisters.setRows {s s' : State} (h : SameRegisters s s') {m m' : Memory} (hm : m' = m) :
    SameRegisters (s.setRows m) (s'.setRows m') :=
  { h with rows := hm }

theorem SameRegisters.setOn {s s' : State} (h : SameRegisters s s') (b : Bool) :
    SameRegisters (s.setOn b) (s'.setOn b) :=
  { h with on := rfl }

theorem SameRegisters.setBlink {s s' : State} (h : SameRegisters s s') (m : BitVec 2) :
    SameRegisters (s.setBlink m) (s'.setBlink m) :=
  { h with blink := rfl }

theorem SameRegisters.setBright {s s' : State} (h : SameRegisters s s') (v : BitVec 4) :
    SameRegisters (s.setBright v) (s'.setBright v) :=
  { h with bright := rfl }

/-- A response changes no register. -/
theorem SameRegisters.alike_complete {s s' : State} (h : SameRegisters s s') (st : Status) :
    CompletesAlike (complete st s) (complete st s') := by
  intro t ht
  cases ht
  exact ⟨_, rfl, { h with }⟩

/-- An emission changes no register, whatever its result (R150, R171). -/
theorem SameRegisters.alike_emit {s s' : State} (h : SameRegisters s s')
    (frame : State → List Byte) :
    CompletesAlike (emitAndComplete frame s) (emitAndComplete frame s') := by
  intro t ht
  cases ht
  exact ⟨_, rfl, { h with }⟩

theorem SameRegisters.alike_whenReady {s s' : State} (h : SameRegisters s s')
    {run run' : StepOutcome} (hrun : CompletesAlike run run') :
    CompletesAlike (whenReady s run) (whenReady s' run') := by
  intro t ht
  obtain ⟨hl, ht⟩ := whenReady_next ht
  rw [whenReady_of_ready (h.life.trans hl)]
  exact hrun t ht

theorem completesAlike_withCoordinate {i : Instr} {n : Nat} {s s' : State}
    {run run' : Fin 8 → StepOutcome} (hrun : ∀ k, CompletesAlike (run k) (run' k)) :
    CompletesAlike (withCoordinate i n s run) (withCoordinate i n s' run') := by
  intro t ht
  obtain ⟨hn, ht⟩ := withCoordinate_next ht
  rw [withCoordinate_of_lt hn]
  exact hrun _ t ht

/-- A buffer command ends in an emission from equal updated rows. -/
theorem SameRegisters.alike_emitRows {s s' : State} (h : SameRegisters s s') {m m' : Memory}
    (frame : State → List Byte) (hm : m' = m) :
    CompletesAlike (emitAndComplete frame (s.setRows m))
      (emitAndComplete frame (s'.setRows m')) :=
  (h.setRows hm).alike_emit frame

theorem SameRegisters.alike_exec {s s' : State} (h : SameRegisters s s') (i : Instr) :
    CompletesAlike (exec i s) (exec i s') := by
  cases i with
  | on => exact h.alike_whenReady ((h.setOn true).alike_emit _)
  | off => exact h.alike_whenReady ((h.setOn false).alike_emit _)
  | setBrightness v =>
    refine h.alike_whenReady ?_
    cases brightness? v with
    | none => exact h.alike_complete _
    | some b => exact (h.setBright b).alike_emit _
  | setBlinking m =>
    refine h.alike_whenReady ?_
    cases blinkMode? m with
    | none => exact h.alike_complete _
    | some b =>
      dsimp only
      rw [h.on]
      split
      · exact (h.setBlink b).alike_emit _
      · exact (h.setBlink b).alike_complete _
  | set bmp => exact h.alike_whenReady (h.alike_emitRows _ (by rw [h.rows]))
  | clear => exact h.alike_whenReady (h.alike_emitRows _ (by rw [h.rows]))
  | setRow r v =>
    exact h.alike_whenReady <| completesAlike_withCoordinate fun row =>
      h.alike_emitRows _ (by rw [h.rows])
  | clearRow r =>
    exact h.alike_whenReady <| completesAlike_withCoordinate fun row =>
      h.alike_emitRows _ (by rw [h.rows])
  | setPixel r c =>
    exact h.alike_whenReady <| completesAlike_withCoordinate fun row =>
      completesAlike_withCoordinate fun col => h.alike_emitRows _ (by rw [h.rows])
  | clearPixel r c =>
    exact h.alike_whenReady <| completesAlike_withCoordinate fun row =>
      completesAlike_withCoordinate fun col => h.alike_emitRows _ (by rw [h.rows])
  | setColumn c v =>
    exact h.alike_whenReady <| completesAlike_withCoordinate fun col =>
      h.alike_emitRows _ (by rw [h.rows, h.columnOrder])
  | clearColumn c =>
    exact h.alike_whenReady <| completesAlike_withCoordinate fun col =>
      h.alike_emitRows _ (by rw [h.rows])
  | reservedOp0 | reservedOpD | reservedOpE | reservedOpF =>
    exact h.alike_whenReady (h.alike_complete _)

/-- Settles O15: the scripted results are not registers. -/
theorem stateWritesSurviveTransportFailure : Obligations.StateWritesSurviveTransportFailure := by
  intro i s t rs ht
  have hsame : SameRegisters { s with results := .ok :: rs } { s with results := .fail :: rs } :=
    ⟨rfl, rfl, rfl, rfl, rfl, rfl, rfl⟩
  obtain ⟨u, hu, h⟩ := hsame.alike_exec i t ht
  exact ⟨u, hu, h.rows, h.on, h.blink, h.bright, h.devaddr, h.life, h.columnOrder⟩

/-! ### What an emission reports -/

/-- The coming results are the fixed ones and the number of the next draw. -/
theorem State.resultAt_congr {s s' : State} (hresults : s'.results = s.results)
    (hdraws : s'.draws = s.draws) (k : Nat) : s'.resultAt k = s.resultAt k := by
  simp only [State.resultAt, hresults, hdraws]

theorem SamePorts.nextResult {s s' : State} (hp : SamePorts s s') : s'.nextResult = s.nextResult := by
  simp only [State.nextResult_eq_resultAt, State.resultAt_congr hp.results hp.draws]

/-- An emission after register writes reports its frame as one from the old state (R59, R172). -/
theorem SamePorts.reports {s s' : State} (hp : SamePorts s s') (frame : State → List Byte) :
    Reports s (s'.emitted frame) (frame s') := by
  have hdelivered : s'.deliveredBytes (frame s') = s.deliveredBytes (frame s') := by
    simp only [State.deliveredBytes, hp.nextResult, hp.draws]
  refine ⟨?_, ?_, ?_, ?_⟩
  · simp [hp.trace, hp.devaddr, hp.nextResult, State.nextResult_eq_resultAt s, statusOf_eq]
  · rw [State.emitted_results, hp.results]
  · rw [State.emitted_draws, hp.draws]
  · rw [State.emitted_chip, hp.chip, hp.draws, hp.devaddr, hdelivered]

/-- A reported write uses up one result. -/
theorem Reports.resultAt {s t : State} {frame : List Byte} (h : Reports s t frame) (k : Nat) :
    t.resultAt k = s.resultAt (k + 1) := by
  obtain ⟨-, hresults, hdraws, -⟩ := h
  rw [← State.afterWrite_resultAt frame]
  exact State.resultAt_congr hresults hdraws k

/-! ### Assembled words and operands -/

/-- A word assembled on a row's match column is its three fields (R83). -/
theorem assembled_packWord (op a : BitVec 4) (d : BitVec 8) :
    assembled (packWord op 0 0) a d = packWord op a d := by
  refine BitVec.eq_of_getLsbD_eq fun k hk => ?_
  simp only [assembled, BitVec.getLsbD_or, BitVec.getLsbD_shiftLeft, BitVec.getLsbD_setWidth,
    getLsbD_packWord]
  split
  · next h => simp [h, hk]
  · next h =>
    rw [BitVec.getLsbD_of_ge d k (by omega)]
    split
    · simp [hk, h, show k - 8 < 16 by omega]
    · rw [BitVec.getLsbD_of_ge a _ (by omega)]
      simp

/-- A word with a non-zero field that its selector wants zero is ILLEGAL_COMMAND (R76, R242). -/
theorem presentCommand_assembled_of_nonzero {s : State} (hl : s.life = .ready) {op a : BitVec 4}
    {d : BitVec 8} (h : op ∈ selectorsWithoutA ∧ a ≠ 0 ∨ op ∈ selectorsWithoutD ∧ d ≠ 0)
    (b : Bitmap) :
    presentCommand (assembled (packWord op 0 0) a d) b s = onlyStatus .illegalCommand s := by
  have hreject : ¬ MustBeZeroHolds (packWord op a d) := by
    simp only [MustBeZeroHolds, fieldOp_packWord, fieldA_packWord, fieldD_packWord]
    tauto
  rw [assembled_packWord, presentCommand_of_mustBeZero hreject]
  exact illegalCommand_eq_onlyStatus hl

/-- The word of a command with a data operand and no index (R73, R83). -/
theorem packWord_zero_index (op : BitVec 4) (d : BitVec 8) :
    packWord op 0 d = packWord op 0 0 ||| d.setWidth 16 := by
  rw [← assembled_packWord]
  simp [assembled]

/-- A byte below `2 ^ n` loses nothing in a register of `n` bits. -/
theorem toNat_extractLsb'_of_lt {v : Byte} {n : Nat} (h : v.toNat < 2 ^ n) :
    (v.extractLsb' 0 n).toNat = v.toNat := by
  simp [Nat.mod_eq_of_lt h]

/-- A register of fewer than eight bits that holds the value of a byte widens to that byte. -/
theorem setWidth_eq_of_toNat_eq {n : Nat} {x : BitVec n} {v : Byte} (h : x.toNat = v.toNat) :
    x.setWidth 8 = v :=
  BitVec.eq_of_toNat_eq (by rw [BitVec.toNat_setWidth, h, Nat.mod_eq_of_lt v.isLt])

/-! ### The control commands in READY -/

section
variable {s : State} (hl : s.life = .ready)
include hl

theorem exec_on : exec .on s = .next ((s.setOn true).emitted powerFrame) := whenReady_of_ready hl _

theorem exec_off : exec .off s = .next ((s.setOn false).emitted powerFrame) :=
  whenReady_of_ready hl _

theorem exec_setBrightness_of_le {v : BitVec 8} (hv : v.toNat ≤ 15) :
    exec (.setBrightness v) s =
      .next ((s.setBright (v.extractLsb' 0 4)).emitted brightnessFrame) := by
  refine (whenReady_of_ready hl _).trans ?_
  simp only [brightness?, if_pos hv, emitAndComplete_eq]

theorem exec_setBrightness_of_gt {v : BitVec 8} (hv : 15 < v.toNat) :
    exec (.setBrightness v) s = .next (s.respond .invalidArgument) := by
  refine (whenReady_of_ready hl _).trans ?_
  simp only [brightness?, if_neg (Nat.not_le.2 hv), complete_eq]

theorem exec_setBlinking_of_on {m : BitVec 8} (hm : m.toNat ≤ 3) (hon : s.on = true) :
    exec (.setBlinking m) s = .next ((s.setBlink (m.extractLsb' 0 2)).emitted powerFrame) := by
  refine (whenReady_of_ready hl _).trans ?_
  simp only [blinkMode?, if_pos hm, if_pos hon, emitAndComplete_eq]

theorem exec_setBlinking_of_off {m : BitVec 8} (hm : m.toNat ≤ 3) (hoff : s.on = false) :
    exec (.setBlinking m) s = .next ((s.setBlink (m.extractLsb' 0 2)).respond .ok) := by
  refine (whenReady_of_ready hl _).trans ?_
  simp [blinkMode?, if_pos hm, hoff, complete_eq]

theorem exec_setBlinking_of_gt {m : BitVec 8} (hm : 3 < m.toNat) :
    exec (.setBlinking m) s = .next (s.respond .invalidArgument) := by
  refine (whenReady_of_ready hl _).trans ?_
  simp only [blinkMode?, if_neg (Nat.not_le.2 hm), complete_eq]

end

/-- A control command that completes does so from any other `ROWS` too, and keeps them (R174). -/
theorem exec_control_rows {i : Instr} {s t : State} (m : Memory)
    (hi : i = .on ∨ i = .off ∨ (∃ v, i = .setBrightness v) ∨ ∃ v, i = .setBlinking v)
    (h : exec i s = .next t) :
    t.rows = s.rows ∧ exec i (s.setRows m) = .next (t.setRows m) := by
  have hl := (exec_next h).1
  have hl' : (s.setRows m).life = .ready := hl
  obtain rfl | rfl | ⟨v, rfl⟩ | ⟨v, rfl⟩ := hi
  · rw [exec_on hl] at h
    cases h
    exact ⟨rfl, exec_on hl'⟩
  · rw [exec_off hl] at h
    cases h
    exact ⟨rfl, exec_off hl'⟩
  · rcases Nat.lt_or_ge 15 v.toNat with hv | hv
    · rw [exec_setBrightness_of_gt hl hv] at h
      cases h
      exact ⟨rfl, exec_setBrightness_of_gt hl' hv⟩
    · rw [exec_setBrightness_of_le hl hv] at h
      cases h
      exact ⟨rfl, exec_setBrightness_of_le hl' hv⟩
  · rcases Nat.lt_or_ge 3 v.toNat with hv | hv
    · rw [exec_setBlinking_of_gt hl hv] at h
      cases h
      exact ⟨rfl, exec_setBlinking_of_gt hl' hv⟩
    · cases hon : s.on with
      | true =>
        rw [exec_setBlinking_of_on hl hv hon] at h
        cases h
        exact ⟨rfl, exec_setBlinking_of_on hl' hv hon⟩
      | false =>
        rw [exec_setBlinking_of_off hl hv hon] at h
        cases h
        exact ⟨rfl, exec_setBlinking_of_off hl' hv hon⟩

/-- Settles O17: by what a completed command leaves, and the four control commands in turn. -/
theorem commandsKeepIdentityAndControlKeepsRows :
    Obligations.CommandsKeepIdentityAndControlKeepsRows :=
  ⟨fun _ _ _ => exec_keepsIdentity, fun _ _ _ m => exec_control_rows m⟩

/-- Settles O26: one emission after `ON` is set. -/
theorem onSetsPowerAndEmits : Obligations.OnSetsPowerAndEmits := by
  intro s hl
  refine ⟨⟨_, exec_on hl, rfl, rfl, rfl, rfl, exec_keepsIdentity (exec_on hl),
    (samePorts_setOn true s).reports powerFrame⟩, rfl, fun a d b hne => ?_⟩
  exact presentCommand_assembled_of_nonzero (op := 0x1) hl
    (hne.imp (⟨by decide, ·⟩) (⟨by decide, ·⟩)) b

/-- Settles O27: one emission after `ON` is cleared. -/
theorem offClearsPowerAndEmits : Obligations.OffClearsPowerAndEmits := by
  intro s hl
  refine ⟨⟨_, exec_off hl, rfl, rfl, rfl, rfl, exec_keepsIdentity (exec_off hl),
    (samePorts_setOn false s).reports powerFrame⟩, rfl, fun a d b hne => ?_⟩
  exact presentCommand_assembled_of_nonzero (op := 0x2) hl
    (hne.imp (⟨by decide, ·⟩) (⟨by decide, ·⟩)) b

/-- Settles O28: a brightness up to 15 fits its register, and the frame carries the operand itself. -/
theorem setBrightnessResult : Obligations.SetBrightnessResult := by
  intro s v hl
  refine ⟨fun hv => ?_, fun hv => exec_setBrightness_of_gt hl hv, packWord_zero_index 0x3 v,
    fun a b hne => presentCommand_assembled_of_nonzero (op := 0x3) hl (.inl ⟨by decide, hne⟩) b⟩
  have hbright : (v.extractLsb' 0 4).toNat = v.toNat := toNat_extractLsb'_of_lt (by omega)
  have hreports := (samePorts_setBright (v.extractLsb' 0 4) s).reports brightnessFrame
  rw [brightnessFrame, State.setBright_bright, setWidth_eq_of_toNat_eq hbright] at hreports
  have hexec := exec_setBrightness_of_le hl hv
  exact ⟨_, hexec, hbright, rfl, rfl, rfl, exec_keepsIdentity hexec, hreports⟩

/-- Settles O29: a mode up to 3 fits its register; only while `ON = 1` is there an emission. -/
theorem setBlinkingResult : Obligations.SetBlinkingResult := by
  intro s m hl
  refine ⟨fun hm => ?_, fun hm => exec_setBlinking_of_gt hl hm, packWord_zero_index 0x4 m,
    fun a b hne => presentCommand_assembled_of_nonzero (op := 0x4) hl (.inl ⟨by decide, hne⟩) b⟩
  have hblink : (m.extractLsb' 0 2).toNat = m.toNat := toNat_extractLsb'_of_lt (by omega)
  cases hon : s.on with
  | true =>
    have hreports := (samePorts_setBlink (m.extractLsb' 0 2) s).reports powerFrame
    rw [powerFrame, State.setBlink_on, if_pos hon, State.setBlink_blink,
      setWidth_eq_of_toNat_eq hblink] at hreports
    have hexec := exec_setBlinking_of_on hl hm hon
    exact ⟨_, hexec, hblink, hon, rfl, rfl, exec_keepsIdentity hexec, fun _ => hreports, nofun⟩
  | false =>
    have hexec := exec_setBlinking_of_off hl hm hon
    exact ⟨_, hexec, hblink, hon, rfl, rfl, exec_keepsIdentity hexec, nofun,
      fun _ => ⟨rfl, rfl, rfl, rfl⟩⟩

/-! ### Sequences through the off state -/

/-- Settles O30: the latched mode uses up no result, and `on` emits the mode it finds. -/
theorem latchedBlinkIsShownByOn : Obligations.LatchedBlinkIsShownByOn := by
  intro s m hl hoff hm
  obtain ⟨t, ht, hblink, -, -, -, ⟨haddr, hlife, -, -⟩, -, hlatched⟩ :=
    (setBlinkingResult s m hl).1 hm
  obtain ⟨htrace, hresults, hdraws, -⟩ := hlatched hoff
  obtain ⟨u, hu, hon, hblink', -, -, -, htrace', -⟩ := (onSetsPowerAndEmits t (hlife.trans hl)).1
  refine ⟨t, u, ht, hu, hon, by rw [hblink', hblink], ?_⟩
  rw [htrace', htrace, haddr, setWidth_eq_of_toNat_eq hblink, State.resultAt_congr hresults hdraws]
  simp

/-- Settles O31: the two commands' results put together; `off` uses up the first result. -/
theorem offThenOnPreservesEverything : Obligations.OffThenOnPreservesEverything := by
  intro s hl
  obtain ⟨t, ht, -, hblink, hbright, hrows, hkeeps, hreports⟩ := (offClearsPowerAndEmits s hl).1
  have ⟨haddr, hlife, _, _⟩ := hkeeps
  obtain ⟨u, hu, hon, hblink', hbright', hrows', hkeeps', htrace, -⟩ :=
    (onSetsPowerAndEmits t (hlife.trans hl)).1
  refine ⟨t, u, ht, hu, hrows'.trans hrows, hblink'.trans hblink, hbright'.trans hbright, hon,
    hkeeps.trans hkeeps', ?_⟩
  rw [htrace, hreports.1, haddr, hblink, hreports.resultAt]
  simp

end Sys2Proof.Machine
end

section
/-! PROOFS. The buffer commands (44_buffer_commands.md): the bits each FrameBuffer function leaves, what
each buffer command answers in READY and when it faults (R202 to R216), its independence of the control
registers (R201), and the pairs that undo each other (R203, R207, R213, R215, R217). -/

namespace Sys2Proof.Machine

open Sys2Proof

/-! ### The bits of the FrameBuffer functions -/

theorem getLsbD_fbSetPixel (m : Memory) (r c : Fin 8) {k : Nat} (hk : k < 8) :
    ((fbSetPixel m r c).read r.val).getLsbD k =
      (decide (k = 7 - c.val) || (m.read r.val).getLsbD k) := by
  rw [read_fbSetPixel, if_pos rfl, BitVec.getLsbD_or, getLsbD_columnMask c k hk, Bool.or_comm]

theorem getLsbD_fbClearPixel (m : Memory) (r c : Fin 8) {k : Nat} (hk : k < 8) :
    ((fbClearPixel m r c).read r.val).getLsbD k =
      (decide (k ≠ 7 - c.val) && (m.read r.val).getLsbD k) := by
  rw [read_fbClearPixel, if_pos rfl, BitVec.getLsbD_and, getLsbD_not_columnMask c k hk, Bool.and_comm]

theorem getLsbD_fbClearColumn (m : Memory) (c r : Fin 8) {k : Nat} (hk : k < 8) :
    ((fbClearColumn m c).read r.val).getLsbD k =
      (decide (k ≠ 7 - c.val) && (m.read r.val).getLsbD k) := by
  rw [read_fbClearColumn, BitVec.getLsbD_and, getLsbD_not_columnMask c k hk, Bool.and_comm]

/-- Row r takes the bit of its source column (R105, R125). -/
theorem getLsbD_fbSetColumn (order : ColumnOrder) (m : Memory) (c r : Fin 8) (v : Byte) {k : Nat}
    (hk : k < 8) :
    ((fbSetColumn order m c v).read r.val).getLsbD k =
      if k = 7 - c.val then v.getLsbD (7 - (srcCol order r).val)
      else (m.read r.val).getLsbD k := by
  rw [read_fbSetColumn, BitVec.getLsbD_or, BitVec.getLsbD_and, getLsbD_not_columnMask c k hk,
    getLsbD_colContribution _ _ _ _ _ hk]
  split
  · next h => simp [h]
  · next h => simp [h]

/-- Setting and clearing a pixel restores its row only if the pixel was off (R213, C6). -/
theorem read_fbClearPixel_fbSetPixel_eq_iff (m : Memory) (r c : Fin 8) :
    (fbClearPixel (fbSetPixel m r c) r c).read r.val = m.read r.val ↔
      (m.read r.val).getLsbD (7 - c.val) = false := by
  constructor
  · intro h
    rw [← h, getLsbD_fbClearPixel _ _ _ (by omega)]
    simp
  · intro hoff
    refine byte_ext fun k hk => ?_
    rw [getLsbD_fbClearPixel _ _ _ hk, getLsbD_fbSetPixel _ _ _ hk]
    by_cases hkc : k = 7 - c.val
    · simp [hkc, hoff]
    · simp [hkc]

/-- Clearing a column forgets what was set in it and nothing else (R217). -/
theorem getLsbD_fbClearColumn_fbSetColumn (order : ColumnOrder) (m : Memory) (c r : Fin 8) (v : Byte)
    {k : Nat} (hk : k < 8) :
    ((fbClearColumn (fbSetColumn order m c v) c).read r.val).getLsbD k =
      (decide (k ≠ 7 - c.val) && (m.read r.val).getLsbD k) := by
  rw [getLsbD_fbClearColumn _ _ _ hk, getLsbD_fbSetColumn _ _ _ _ _ hk]
  by_cases hkc : k = 7 - c.val
  · simp [hkc]
  · simp [hkc]

theorem fbReplaceAll_zero (m : Memory) : fbReplaceAll m 0 = fbZeroAll m := by
  have hrow : (fun (i : Fin 8) (_ : Byte) => bitmapRow 0 i) = fun _ _ => 0x00 := by
    funext i _
    simp [bitmapRow]
  rw [fbReplaceAll, hrow, fbZeroAll]

/-- `fb_set_column` short-circuits on zero (R125). -/
theorem fbSetColumn_zero (order : ColumnOrder) (m : Memory) (c : Fin 8) :
    fbSetColumn order m c 0x00 = fbClearColumn m c := by
  rw [fbSetColumn, if_pos rfl]

/-! ### The buffer commands in READY -/

section
variable {s : State} (hl : s.life = .ready)
include hl

theorem exec_set (bmp : Bitmap) :
    exec (.set bmp) s = .next ((s.setRows (fbReplaceAll s.rows bmp)).emitted fullFrame) :=
  whenReady_of_ready hl _

theorem exec_clear : exec .clear s = .next ((s.setRows (fbZeroAll s.rows)).emitted fullFrame) :=
  whenReady_of_ready hl _

theorem exec_setRow_of_lt {r : BitVec 4} (hr : r.toNat < 8) (v : BitVec 8) :
    exec (.setRow r v) s =
      .next ((s.setRows (fbSetRow s.rows ⟨r.toNat, hr⟩ v)).emitted (rowFrame ⟨r.toNat, hr⟩)) :=
  (whenReady_of_ready hl _).trans (withCoordinate_of_lt hr)

theorem exec_clearRow_of_lt {r : BitVec 4} (hr : r.toNat < 8) :
    exec (.clearRow r) s =
      .next ((s.setRows (fbClearRow s.rows ⟨r.toNat, hr⟩)).emitted (rowFrame ⟨r.toNat, hr⟩)) :=
  (whenReady_of_ready hl _).trans (withCoordinate_of_lt hr)

theorem exec_setPixel_of_lt {r : BitVec 4} {c : BitVec 8} (hr : r.toNat < 8) (hc : c.toNat < 8) :
    exec (.setPixel r c) s =
      .next ((s.setRows (fbSetPixel s.rows ⟨r.toNat, hr⟩ ⟨c.toNat, hc⟩)).emitted
        (rowFrame ⟨r.toNat, hr⟩)) :=
  (whenReady_of_ready hl _).trans <| (withCoordinate_of_lt hr).trans (withCoordinate_of_lt hc)

theorem exec_clearPixel_of_lt {r : BitVec 4} {c : BitVec 8} (hr : r.toNat < 8) (hc : c.toNat < 8) :
    exec (.clearPixel r c) s =
      .next ((s.setRows (fbClearPixel s.rows ⟨r.toNat, hr⟩ ⟨c.toNat, hc⟩)).emitted
        (rowFrame ⟨r.toNat, hr⟩)) :=
  (whenReady_of_ready hl _).trans <| (withCoordinate_of_lt hr).trans (withCoordinate_of_lt hc)

theorem exec_setColumn_of_lt {c : BitVec 4} (hc : c.toNat < 8) (v : BitVec 8) :
    exec (.setColumn c v) s =
      .next ((s.setRows (fbSetColumn s.columnOrder s.rows ⟨c.toNat, hc⟩ v)).emitted fullFrame) :=
  (whenReady_of_ready hl _).trans (withCoordinate_of_lt hc)

theorem exec_clearColumn_of_lt {c : BitVec 4} (hc : c.toNat < 8) :
    exec (.clearColumn c) s =
      .next ((s.setRows (fbClearColumn s.rows ⟨c.toNat, hc⟩)).emitted fullFrame) :=
  (whenReady_of_ready hl _).trans (withCoordinate_of_lt hc)

/-- An illegal coordinate is the fault: it is checked before any value range (R170, R250). -/
theorem exec_of_coordinate_illegal {i : Instr} (hi : i.coordinatesLegal = false) :
    exec i s = raiseCoordinateUndefined i s := by
  have hcommand : i.notReserved = true := by
    cases i with
    | reservedOp0 | reservedOpD | reservedOpE | reservedOpF => cases hi
    | _ => rfl
  have ho := exec_ready i hl
  generalize exec i s = o at ho
  cases ho with
  | illegal h => simp [h] at hcommand
  | fault => rfl
  | invalid _ h => simp [h] at hi
  | latched _ _ _ _ hw => simp [hw.2.1] at hi
  | emitted _ _ hw => simp [hw.2.1] at hi

theorem exec_faultsWith {i : Instr} (hi : i.coordinatesLegal = false) :
    FaultsWith (encode i) s (exec i s) :=
  ⟨_, exec_of_coordinate_illegal hl hi, rfl, rfl, Config.faultTraffic s.draws, rfl⟩

end

/-- A row command keeps every register but `ROWS` and reports the frame of its row (R144, R200). -/
theorem setRows_emitted_rowFrame (s : State) {m : Memory} {r : Fin 8} {x : Byte}
    (hwire : reverseBits (m.read r.val) = x) :
    KeepsControl s ((s.setRows m).emitted (rowFrame r)) ∧
      KeepsIdentity s ((s.setRows m).emitted (rowFrame r)) ∧
      Reports s ((s.setRows m).emitted (rowFrame r))
        [BitVec.ofNat 8 (2 * r.val), x] := by
  have hreports := (samePorts_setRows m s).reports (rowFrame r)
  rw [rowFrame, rowAddr_eq, State.setRows_rows, hwire] at hreports
  exact ⟨⟨rfl, rfl, rfl⟩, ⟨rfl, rfl, rfl, rfl⟩, hreports⟩

/-- A whole-buffer or column command keeps every register but `ROWS` and reports the full frame of the
written rows (R145, R200). -/
theorem setRows_emitted_fullFrame (s : State) {m : Memory} {row : Fin 8 → Byte}
    (hread : ∀ r : Fin 8, m.read r.val = row r) :
    KeepsControl s ((s.setRows m).emitted fullFrame) ∧
      KeepsIdentity s ((s.setRows m).emitted fullFrame) ∧
      Reports s ((s.setRows m).emitted fullFrame) (fullFrameOf row) := by
  obtain rfl : (fun r : Fin 8 => m.read r.val) = row := funext hread
  exact ⟨⟨rfl, rfl, rfl⟩, ⟨rfl, rfl, rfl, rfl⟩, (samePorts_setRows m s).reports fullFrame⟩

/-- Settles O32: each row is written with its byte of the bitmap, and the frame carries those rows. -/
theorem setReplacesEveryRow : Obligations.SetReplacesEveryRow := by
  intro s bmp hl
  have hread := read_fbReplaceAll s.rows bmp
  refine ⟨⟨_, exec_set hl bmp, hread, fun a ha => read_fbReplaceAll_other _ _ ha,
    setRows_emitted_fullFrame s hread⟩, rfl, fun a d b hne => ?_⟩
  exact presentCommand_assembled_of_nonzero (op := 0x5) hl
    (hne.imp (⟨by decide, ·⟩) (⟨by decide, ·⟩)) b

/-- Settles O33: each row is written with zero, and the full frame of zero rows is sixteen zeros. -/
theorem clearZeroesEveryRow : Obligations.ClearZeroesEveryRow := by
  intro s hl
  have hread := read_fbZeroAll s.rows
  refine ⟨⟨_, exec_clear hl, hread, fun a ha => read_fbZeroAll_other _ ha,
    setRows_emitted_fullFrame s hread⟩, rfl, fun a d b hne => ?_⟩
  exact presentCommand_assembled_of_nonzero (op := 0x6) hl
    (hne.imp (⟨by decide, ·⟩) (⟨by decide, ·⟩)) b

/-- Settles O34: one write to the row, or the coordinate fault. -/
theorem setRowResult : Obligations.SetRowResult := by
  intro s r v hl
  have hencode : encode (.setRow r v) = assembled 0x7000 r v := (assembled_packWord 0x7 r v).symm
  refine ⟨fun hr => ?_, fun hr => ?_, hencode⟩
  · have hread := read_fbSetRow s.rows ⟨r.toNat, hr⟩ v
    have hrow := (hread r.toNat).trans (if_pos rfl)
    exact ⟨_, exec_setRow_of_lt hl hr v, hrow, fun a ha => (hread a).trans (if_neg ha),
      setRows_emitted_rowFrame s (congrArg reverseBits hrow)⟩
  · rw [← hencode]
    exact exec_faultsWith hl (decide_eq_false (Nat.not_lt.2 hr))

/-- Settles O35: one write of zero to the row, the coordinate fault, or an illegal word. -/
theorem clearRowResult : Obligations.ClearRowResult := by
  intro s r hl
  have hencode : encode (.clearRow r) = assembled 0x8000 r 0 := (assembled_packWord 0x8 r 0).symm
  refine ⟨fun hr => ?_, fun hr => ?_, hencode, fun d b hd =>
    presentCommand_assembled_of_nonzero (op := 0x8) hl (.inr ⟨by decide, hd⟩) b⟩
  · have hread := read_fbClearRow s.rows ⟨r.toNat, hr⟩
    have hrow := (hread r.toNat).trans (if_pos rfl)
    have hzero : reverseBits 0x00 = 0x00 := by decide
    exact ⟨_, exec_clearRow_of_lt hl hr, hrow, fun a ha => (hread a).trans (if_neg ha),
      setRows_emitted_rowFrame s ((congrArg reverseBits hrow).trans hzero)⟩
  · rw [← hencode]
    exact exec_faultsWith hl (decide_eq_false (Nat.not_lt.2 hr))

/-- The coordinates of a pixel command are checked as a pair (R72, R77). -/
theorem coordinates_illegal_of_ge {r : BitVec 4} {c : BitVec 8} (h : 8 ≤ r.toNat ∨ 8 ≤ c.toNat) :
    (decide (r.toNat < 8) && decide (c.toNat < 8)) = false := by
  simpa [imp_iff_not_or] using h

/-- Settles O36: one write to the row, whose bits are the old ones with bit 7-c set, or the fault. -/
theorem setPixelResult : Obligations.SetPixelResult := by
  intro s r c hl
  have hencode : encode (.setPixel r c) = assembled 0x9000 r c := (assembled_packWord 0x9 r c).symm
  refine ⟨fun hr hc => ?_, fun h => ?_, hencode⟩
  · exact ⟨_, exec_setPixel_of_lt hl hr hc,
      fun k hk => getLsbD_fbSetPixel s.rows ⟨r.toNat, hr⟩ ⟨c.toNat, hc⟩ hk,
      fun a ha => (read_fbSetPixel _ _ _ a).trans (if_neg ha), setRows_emitted_rowFrame s rfl⟩
  · rw [← hencode]
    exact exec_faultsWith hl (coordinates_illegal_of_ge h)

/-- Settles O37: one write to the row, whose bits are the old ones with bit 7-c cleared, or the fault. -/
theorem clearPixelResult : Obligations.ClearPixelResult := by
  intro s r c hl
  have hencode : encode (.clearPixel r c) = assembled 0xA000 r c := (assembled_packWord 0xA r c).symm
  refine ⟨fun hr hc => ?_, fun h => ?_, hencode⟩
  · exact ⟨_, exec_clearPixel_of_lt hl hr hc,
      fun k hk => getLsbD_fbClearPixel s.rows ⟨r.toNat, hr⟩ ⟨c.toNat, hc⟩ hk,
      fun a ha => (read_fbClearPixel _ _ _ a).trans (if_neg ha), setRows_emitted_rowFrame s rfl⟩
  · rw [← hencode]
    exact exec_faultsWith hl (coordinates_illegal_of_ge h)

/-- Settles O38: the source column of row r is r or 7-r by the column order. -/
theorem setColumnResult : Obligations.SetColumnResult := by
  intro s c v hl
  have hencode : encode (.setColumn c v) = assembled 0xB000 c v := (assembled_packWord 0xB c v).symm
  refine ⟨fun hc => ?_, fun hc => ?_, hencode⟩
  · refine ⟨_, exec_setColumn_of_lt hl hc v, fun r k hk => ?_,
      fun a ha => read_fbSetColumn_other _ _ _ _ ha, setRows_emitted_fullFrame s fun _ => rfl⟩
    refine (getLsbD_fbSetColumn s.columnOrder s.rows ⟨c.toNat, hc⟩ r v hk).trans ?_
    cases s.columnOrder with
    | msbTop => rfl
    | lsbTop =>
      have hsrc : 7 - (srcCol .lsbTop r).val = r.val := by
        simp only [srcCol, Fin.val_rev]
        omega
      rw [hsrc]
  · rw [← hencode]
    exact exec_faultsWith hl (decide_eq_false (Nat.not_lt.2 hc))

/-- Settles O39: bit 7-c is cleared in every row, the coordinate fault, or an illegal word. -/
theorem clearColumnResult : Obligations.ClearColumnResult := by
  intro s c hl
  have hencode : encode (.clearColumn c) = assembled 0xC000 c 0 := (assembled_packWord 0xC c 0).symm
  refine ⟨fun hc => ?_, fun hc => ?_, hencode, fun d b hd =>
    presentCommand_assembled_of_nonzero (op := 0xC) hl (.inr ⟨by decide, hd⟩) b⟩
  · exact ⟨_, exec_clearColumn_of_lt hl hc,
      fun r k hk => getLsbD_fbClearColumn s.rows ⟨c.toNat, hc⟩ r hk,
      fun a ha => read_fbClearColumn_other _ _ ha, setRows_emitted_fullFrame s fun _ => rfl⟩
  · rw [← hencode]
    exact exec_faultsWith hl (decide_eq_false (Nat.not_lt.2 hc))

/-! ### Independence of the control registers

R201 through the operations a buffer command is made of: with other values of `ON`, `BLINK` and `BRIGHT`
each answers the same next state with those values. -/

/-- The state with other values of the control registers. -/
def State.withControl (b : Bool) (m : BitVec 2) (v : BitVec 4) (s : State) : State :=
  { s with on := b, blink := m, bright := v }

/-- If `o` is a next state it has the control registers of `s`, and `o'` is the same next state with the
values given. -/
def IgnoresControl (b : Bool) (m : BitVec 2) (v : BitVec 4) (s : State) (o o' : StepOutcome) : Prop :=
  ∀ t, o = .next t → KeepsControl s t ∧ o' = .next (t.withControl b m v)

section
variable {b : Bool} {m : BitVec 2} {v : BitVec 4} {s : State}

theorem IgnoresControl.whenReady {run run' : StepOutcome} (h : IgnoresControl b m v s run run') :
    IgnoresControl b m v s (whenReady s run) (whenReady (s.withControl b m v) run') := by
  intro t ht
  obtain ⟨hl, ht⟩ := whenReady_next ht
  rw [whenReady_of_ready (show (s.withControl b m v).life = .ready from hl)]
  exact h t ht

theorem ignoresControl_withCoordinate {i : Instr} {n : Nat} {run run' : Fin 8 → StepOutcome}
    (h : ∀ k, IgnoresControl b m v s (run k) (run' k)) :
    IgnoresControl b m v s (withCoordinate i n s run)
      (withCoordinate i n (s.withControl b m v) run') := by
  intro t ht
  obtain ⟨hn, ht⟩ := withCoordinate_next ht
  rw [withCoordinate_of_lt hn]
  exact h _ t ht

/-- An emission from written rows, of a frame that reads no control register. -/
theorem ignoresControl_emitRows {frame : State → List Byte} (rows : Memory)
    (hframe : frame ((s.withControl b m v).setRows rows) = frame (s.setRows rows)) :
    IgnoresControl b m v s (emitAndComplete frame (s.setRows rows))
      (emitAndComplete frame ((s.withControl b m v).setRows rows)) := by
  intro t ht
  cases ht
  refine ⟨⟨rfl, rfl, rfl⟩, ?_⟩
  rw [emitAndComplete_eq, State.emitted, hframe]
  rfl

theorem ignoresControl_exec {i : Instr} (hcommand : i.notReserved = true)
    (hi : i ≠ .on ∧ i ≠ .off ∧ (∀ x, i ≠ .setBrightness x) ∧ ∀ x, i ≠ .setBlinking x) :
    IgnoresControl b m v s (exec i s) (exec i (s.withControl b m v)) := by
  obtain (⟨r, x, rfl⟩ | ⟨r, rfl⟩ | ⟨r, c, rfl⟩ | ⟨r, c, rfl⟩) |
    (⟨bmp, rfl⟩ | rfl | ⟨c, x, rfl⟩ | ⟨c, rfl⟩) := buffer_command_cases hcommand hi
  · exact .whenReady <| ignoresControl_withCoordinate fun _ => ignoresControl_emitRows _ rfl
  · exact .whenReady <| ignoresControl_withCoordinate fun _ => ignoresControl_emitRows _ rfl
  · exact .whenReady <| ignoresControl_withCoordinate fun _ =>
      ignoresControl_withCoordinate fun _ => ignoresControl_emitRows _ rfl
  · exact .whenReady <| ignoresControl_withCoordinate fun _ =>
      ignoresControl_withCoordinate fun _ => ignoresControl_emitRows _ rfl
  · exact .whenReady <| ignoresControl_emitRows _ rfl
  · exact .whenReady <| ignoresControl_emitRows _ rfl
  · exact .whenReady <| ignoresControl_withCoordinate fun _ => ignoresControl_emitRows _ rfl
  · exact .whenReady <| ignoresControl_withCoordinate fun _ => ignoresControl_emitRows _ rfl

end

/-- Settles O18: a buffer command writes `ROWS` only, and its frame reads no control register. -/
theorem bufferCommandsIgnoreControl : Obligations.BufferCommandsIgnoreControl := by
  intro i s t b m v ⟨hcommand, hi⟩ h
  exact ignoresControl_exec hcommand hi t h

/-! ### Patterns and pairs -/

/-- Settles O40: the written rows are equal, so the outcomes are, in READY and outside it. -/
theorem zeroPatternsActAsClears : Obligations.ZeroPatternsActAsClears := by
  intro s
  refine ⟨?_, fun r hr => ?_, fun c hc => ?_⟩
  · simp only [exec, execSet, execClear, fbReplaceAll_zero]
  · simp only [exec, execSetRow, execClearRow, withCoordinate_of_lt hr, fbSetRow, fbClearRow]
  · simp only [exec, execSetColumn, execClearColumn, withCoordinate_of_lt hc, fbSetColumn_zero]

/-- Settles O41: the first command leaves READY, and the rows are those of the two updates. -/
theorem setThenClearPixelRestoresIffOff : Obligations.SetThenClearPixelRestoresIffOff := by
  intro s r c hl hr hc
  have hset := exec_setPixel_of_lt hl hr hc
  refine ⟨_, _, hset, exec_clearPixel_of_lt (exec_next_life hset) hr hc,
    read_fbClearPixel_fbSetPixel_eq_iff s.rows ⟨r.toNat, hr⟩ ⟨c.toNat, hc⟩, fun a ha => ?_⟩
  simp [read_fbClearPixel, read_fbSetPixel, ha]

/-- Settles O42: every source bit of 0xFF is 1, and the clear leaves all bits but that column's. -/
theorem setAllThenClearColumn : Obligations.SetAllThenClearColumn := by
  intro s c hl hc
  have hset := exec_setColumn_of_lt hl hc 0xFF
  refine ⟨_, _, hset, exec_clearColumn_of_lt (exec_next_life hset) hc, fun r => ⟨?_, fun k hk =>
    getLsbD_fbClearColumn_fbSetColumn s.columnOrder s.rows ⟨c.toNat, hc⟩ r 0xFF hk⟩⟩
  have hones : ∀ j : Fin 8, (0xFF : Byte).getLsbD (7 - j.val) = true := by decide
  have hbit := getLsbD_fbSetColumn s.columnOrder s.rows ⟨c.toNat, hc⟩ r 0xFF
    (show 7 - c.toNat < 8 by omega)
  exact hbit.trans ((if_pos rfl).trans (hones _))

end Sys2Proof.Machine
end

section
/-! PROOFS. Exceptions and status (60_exceptions.md): the refusals of a broken host duty (R252, R253),
what a run keeps (R251), the coordinate fault (R250), the order in which the outcomes are decided (R255),
and when the status is OK (R241). -/

namespace Sys2Proof.Machine

open Sys2Proof

/-! ### Refusals -/

theorem step_of_nil {s : State} (hp : s.pending = []) : step s = .next s := by
  simp only [step, transact, hp]

theorem step_of_overlap {s : State} {rest : List HostAction} (hp : s.pending = .overlap :: rest) :
    step s = .refused .overlappingTransaction := by
  simp only [step, transact, hp, presentAction]

theorem step_of_reset {s : State} {a : Option Nat} {b : Nat} {rest : List HostAction}
    (hp : s.pending = .reset a b :: rest) : step s = resetTransaction a b s.takeAction := by
  simp only [step, transact, hp, presentAction]

theorem resetTransaction_of_brightness_gt {b : Nat} (hb : 15 < b) (a : Option Nat) (s : State) :
    resetTransaction a b s = .refused (.resetBrightness b) :=
  if_pos hb

theorem resetTransaction_of_address_gt {a b : Nat} (hb : b ≤ 15) (ha : 0x7F < a) (s : State) :
    resetTransaction (some a) b s = .refused (.resetAddress a) :=
  (if_neg (Nat.not_lt.2 hb)).trans (if_pos ha)

/-- Settles O5: the brightness is checked before the address. -/
theorem hostDutyViolationsAreRefused : Obligations.HostDutyViolationsAreRefused := by
  intro s rest
  refine ⟨step_of_overlap, fun a b hp hb => ?_, fun a b hp ha => ?_⟩
  · rw [step_of_reset hp, resetTransaction_of_brightness_gt hb]
    exact ⟨⟨_, rfl⟩, fun _ => rfl⟩
  · rw [step_of_reset hp]
    refine ⟨?_, fun hb => resetTransaction_of_address_gt hb ha _⟩
    rcases Nat.lt_or_ge 15 b with hb | hb
    · exact ⟨_, resetTransaction_of_brightness_gt hb _ _⟩
    · exact ⟨_, resetTransaction_of_address_gt hb ha _⟩

/-- A presented command outside READY is refused (R252). -/
theorem step_of_command_not_ready {s : State} {w : CommandWord} {bmp : Bitmap}
    {rest : List HostAction} (hp : s.pending = .command w bmp :: rest) (h : s.life ≠ .ready) :
    step s = .refused (.notReady s.life) := by
  rw [step_of_command hp]
  exact presentCommand_of_not_ready (s := { s with pending := rest }) h w bmp

theorem RunRecord.advance_of_refused {r : RunRecord} {e : Refusal} (h : step r.state = .refused e) :
    r.advance = { r with state := r.state.takeAction, refused := true } := by
  simp only [RunRecord.advance, h]

/-- Settles O7: neither the decoder nor an instruction is asked outside READY. -/
theorem commandsOutsideReadyAreRefused : Obligations.CommandsOutsideReadyAreRefused := by
  intro s w b rest hp hl
  have hstep := step_of_command_not_ready hp hl
  refine ⟨hstep, fun i => exec_not_ready i hl, fun fs m => ?_⟩
  rw [RunRecord.advance_of_refused (r := ⟨s, fs, m⟩) hstep]

/-! ### A run keeps its fault record and its refusal mark -/

/-- `r'` has the faults of `r` as the beginning of its own, and the refusal mark if `r` has it. -/
def RunRecord.KeepsRecord (r r' : RunRecord) : Prop :=
  r.faults <+: r'.faults ∧ (r.refused = true → r'.refused = true)

theorem RunRecord.KeepsRecord.trans {r r' r'' : RunRecord} (h : r.KeepsRecord r')
    (h' : r'.KeepsRecord r'') : r.KeepsRecord r'' := by
  obtain ⟨hfaults, hmark⟩ := h
  obtain ⟨hfaults', hmark'⟩ := h'
  exact ⟨hfaults.trans hfaults', hmark' ∘ hmark⟩

/-- One transaction adds at most one fault and never clears the mark. -/
theorem RunRecord.keepsRecord_advance (r : RunRecord) : r.KeepsRecord r.advance := by
  unfold RunRecord.advance
  split
  · exact ⟨List.prefix_rfl, id⟩
  · exact ⟨List.prefix_append _ _, id⟩
  · exact ⟨List.prefix_rfl, fun _ => rfl⟩

theorem RunRecord.keepsRecord_run (n : Nat) (r : RunRecord) : r.KeepsRecord (RunRecord.run n r) := by
  induction n generalizing r with
  | zero => exact ⟨List.prefix_rfl, id⟩
  | succ n ih => exact r.keepsRecord_advance.trans (ih r.advance)

/-- Outside READY only a reset can change `LIFE`: any other action is refused, and none is idle. -/
theorem reset_pending_of_life_changed {s t : State} (h : step s = .next t) (hl : s.life ≠ .ready)
    (hchanged : t.life ≠ s.life) : ∃ a b rest, s.pending = .reset a b :: rest := by
  rcases hp : s.pending with _ | ⟨⟨a, b⟩ | ⟨w, bmp⟩ | _, rest⟩
  · rw [step_of_nil hp] at h
    cases h
    exact absurd rfl hchanged
  · exact ⟨a, b, rest, rfl⟩
  · rw [step_of_command_not_ready hp hl] at h
    cases h
  · rw [step_of_overlap hp] at h
    cases h

/-- Settles O8: by the presented action, and by induction on the transactions of the run. -/
theorem onlyResetLeavesNotReady : Obligations.OnlyResetLeavesNotReady := by
  refine ⟨fun _ _ => reset_pending_of_life_changed, fun s w b rest hl hp => ?_,
    RunRecord.keepsRecord_run⟩
  rw [← hl]
  exact step_of_command_not_ready hp (by simp [hl])

/-! ### The coordinate fault -/

/-- Settles O14: no other case of `ReadyOutcome` is a fault. -/
theorem faultExactlyOnBadCoordinate : Obligations.FaultExactlyOnBadCoordinate := by
  intro i s hl
  refine ⟨⟨?_, fun hi => ⟨_, exec_of_coordinate_illegal hl hi⟩⟩, exec_faultsWith hl⟩
  rintro ⟨f, hf⟩
  cases hf ▸ exec_ready i hl with
  | fault _ hi => exact hi

/-! ### The order of the outcomes -/

section
variable {i : Instr} {s : State} (hl : s.life = .ready)
include hl

theorem exec_of_reserved (hi : i.notReserved = false) :
    exec i s = onlyStatus .illegalCommand s := by
  have ho := exec_ready i hl
  generalize exec i s = o at ho
  cases ho with
  | illegal => rfl
  | fault h | invalid h => simp [h] at hi
  | latched _ _ _ _ hw | emitted _ _ hw => simp [hw.1] at hi

/-- A value out of range is reported only where the earlier checks passed (R170, R255). -/
theorem exec_of_value_illegal (hcommand : i.notReserved = true) (hcoords : i.coordinatesLegal = true)
    (hi : i.valueLegal = false) : exec i s = onlyStatus .invalidArgument s := by
  have ho := exec_ready i hl
  generalize exec i s = o at ho
  cases ho with
  | illegal h => simp [h] at hcommand
  | fault _ h => simp [h] at hcoords
  | invalid => rfl
  | latched _ _ _ _ hw | emitted _ _ hw => simp [hw.2.2] at hi

end

/-- What a completed legal instruction adds to the trace: the response OK alone when a blink mode is
latched while off, else one write and the status of its result (R172). -/
theorem exec_next_trace {i : Instr} {s t : State} (hw : i.WellFormed) (h : exec i s = .next t) :
    ((∃ m, i = .setBlinking m) ∧ s.on = false → t.trace = s.trace ++ [.response .ok]) ∧
    (¬((∃ m, i = .setBlinking m) ∧ s.on = false) →
      ∃ frame, t.trace = s.trace ++
        [.write s.devaddr frame (s.resultAt 0), .response (statusFor (s.resultAt 0))]) := by
  obtain ⟨hcommand, hcoords, hvalue⟩ := hw
  cases readyOutcome_of_exec_next h with
  | illegal hi => simp [hi] at hcommand
  | invalid _ _ hi => simp [hi] at hvalue
  | latched m b hi hon => exact ⟨fun _ => rfl, fun hn => absurd ⟨⟨m, hi⟩, hon⟩ hn⟩
  | emitted s' frame _ hn hp =>
    obtain ⟨htrace, -⟩ := hp.reports frame
    exact ⟨fun hlatched => absurd hlatched hn, fun _ => ⟨_, htrace⟩⟩

/-- A word the decoder accepts runs as its instruction. -/
theorem presentCommand_of_decode {w : CommandWord} {bmp : Bitmap} {i : Instr}
    (h : decode w bmp = .ok i) (s : State) : presentCommand w bmp s = exec i s := by
  simp only [presentCommand, h]

/-- Settles O11: one lemma for each branch; the recorded word is the presented one, since it decodes. -/
theorem outcomesFollowThePriority : Obligations.OutcomesFollowThePriority := by
  intro s w b
  split
  · next hl => exact presentCommand_of_not_ready hl w b
  next hl =>
  have hl : s.life = .ready := not_not.1 hl
  split
  · next hreject =>
    simp only [presentCommand, hreject]
    exact illegalCommand_eq_onlyStatus hl
  next i hdecode =>
  rw [presentCommand_of_decode hdecode]
  split
  · next hres => exact exec_of_reserved hl hres
  next hcommand =>
  split
  · next hcoords =>
    have hfault := exec_faultsWith hl hcoords
    rwa [encodeOfDecode w b i hdecode] at hfault
  next hcoords =>
  have hcommand : i.notReserved = true := Bool.of_not_eq_false hcommand
  have hcoords : i.coordinatesLegal = true := Bool.of_not_eq_false hcoords
  split
  · next hvalue => exact exec_of_value_illegal hl hcommand hcoords hvalue
  next hvalue =>
  have hw : i.WellFormed := ⟨hcommand, hcoords, Bool.of_not_eq_false hvalue⟩
  obtain ⟨t, ht⟩ := exec_of_wellFormed hl hw
  exact ⟨t, ht, exec_next_trace hw ht⟩

/-! ### The status OK -/

theorem statusFor_eq_ok_iff {r : TransportResult} : statusFor r = .ok ↔ r = .ok := by
  cases r <;> simp [statusFor]

/-- Settles O12: each completing case of `ReadyOutcome` ends in its own status. -/
theorem okExactlyWhenPassedAndDelivered : Obligations.OkExactlyWhenPassedAndDelivered := by
  intro i s t h
  cases readyOutcome_of_exec_next h with
  | illegal hi => simp [Instr.WellFormed, hi]
  | invalid _ _ hi => simp [Instr.WellFormed, hi]
  | latched m b hi hon hw => exact iff_of_true (by simp) ⟨hw, .inr ⟨⟨m, hi⟩, hon⟩⟩
  | emitted s' frame hw hn hp =>
    obtain ⟨htrace, -⟩ := hp.reports frame
    rw [htrace, and_iff_right hw, or_iff_left hn, ← statusFor_eq_ok_iff]
    simp

end Sys2Proof.Machine
end

section
/-! PROOFS. The display by the reference reading (60_exceptions.md R267 to R272): when a pixel is lit, what
the delivered frames light or darken, and where a received `[0x21]` comes from (R268, R285, R294). -/

namespace Sys2Proof.Machine

open Sys2Proof

/-! ### Lit pixels -/

/-- Settles O55: a pixel dark under either of the first two conditions is not lit. -/
theorem pixelIsLitByThreeConditions : Obligations.PixelIsLitByThreeConditions := by
  intro k r c
  have hdark : k.osc = false ∨ k.displayOn = false → k.lit r c = some false := by
    rintro (hosc | hon)
    · exact Chip.lit_of_osc_off hosc r c
    · exact Chip.lit_of_display_off hon r c
  refine ⟨hdark, fun b hb => Chip.lit_of_known hb c, fun hlit => ?_⟩
  by_contra hne
  rw [not_and_or, Bool.not_eq_true, Bool.not_eq_true] at hne
  simp [hdark hne] at hlit

/-- A row command's delivered frame shows pixel (r, c) as it stands in the written row, bit 7-c of it, at
a chip whose oscillator and display are on (R102, R272). -/
theorem State.setRows_emitted_rowFrame_lit {s : State} (hok : s.resultAt 0 = .ok)
    (haddr : s.chip.addr = s.devaddr) (hosc : s.chip.osc = true) (hon : s.chip.displayOn = true)
    (m : Memory) (r c : Fin 8) : ((s.setRows m).emitted (rowFrame r)).chip.lit r c =
      some ((m.read r.val).getLsbD (7 - c.val)) := by
  have hnext : (s.setRows m).nextResult = .ok := s.nextResult_eq_resultAt.trans hok
  have hram := Chip.receive_row s.draws r (s.setRows m) haddr.symm
  obtain ⟨hosc', hon', -, -⟩ :=
    Chip.receive_data_keeps s.draws s.devaddr s.chip (rowFrame_head r (s.setRows m))
  rw [State.emitted_chip, State.deliveredBytes_of_ok _ hnext]
  refine (Chip.lit_of_known hram c).trans ?_
  rw [hosc', hon', hosc, hon, getLsbD_reverseBits _ _ c.isLt]
  rfl

/-- Settles O53: the written bit is the one the pixel shows. -/
theorem pixelCommandsLightTheDisplay : Obligations.PixelCommandsLightTheDisplay := by
  intro s r c hr hc hl hok haddr hosc hon
  have hbit : 7 - c.toNat < 8 := by omega
  have hlit := State.setRows_emitted_rowFrame_lit hok haddr hosc hon
  refine ⟨⟨_, exec_setPixel_of_lt hl hr hc, (hlit _ _ _).trans (congrArg some ?_)⟩,
    ⟨_, exec_clearPixel_of_lt hl hr hc, (hlit _ _ _).trans (congrArg some ?_)⟩⟩
  · rw [getLsbD_fbSetPixel _ _ _ hbit]
    simp
  · rw [getLsbD_fbClearPixel _ _ _ hbit]
    simp

/-- Settles O58: the delivered power frame clears the display-on flag. -/
theorem offDarkensTheDisplay : Obligations.OffDarkensTheDisplay := by
  intro s hl hok haddr
  refine ⟨_, exec_off hl, fun r c => Chip.lit_of_display_off ?_ r c⟩
  have hnext : (s.setOn false).nextResult = .ok := s.nextResult_eq_resultAt.trans hok
  rw [State.emitted_chip, State.deliveredBytes_of_ok _ hnext, Chip.receive_powerFrame]
  simp [haddr]

/-! ### Where a received `[0x21]` comes from

To the chip and the trace a transaction is a sequence of register writes, responses and writes of frames.
What such a sequence does to the oscillator is proved by induction over it, once for every step. -/

/-- `t` is reached from `s` by register writes, responses and Transport writes of frames. -/
inductive FramesSent (s : State) : State → Prop where
  | refl : FramesSent s s
  | registers {t t' : State} (h : FramesSent s t) (htrace : t'.trace = t.trace)
      (hchip : t'.chip = t.chip) : FramesSent s t'
  | respond {t : State} (h : FramesSent s t) (st : Status) : FramesSent s (t.respond st)
  | write {t : State} (h : FramesSent s t) {frame : List Byte} (hframe : IsFrame frame) :
      FramesSent s (t.afterWrite frame)

/-- After register writes, one frame and its response. -/
theorem SamePorts.framesSent_emitted {s s' : State} (hp : SamePorts s s')
    {frame : State → List Byte} (hframe : IsFrame (frame s')) : FramesSent s (s'.emitted frame) :=
  ((FramesSent.refl.registers hp.trace hp.chip).write hframe).respond _

theorem Performed.framesSent {s t : State} (ht : Performed s t) : FramesSent s t := by
  cases ht with
  | rejected st => exact FramesSent.refl.respond st
  | power b => exact (samePorts_setOn b s).framesSent_emitted (isFrame_powerFrame _)
  | brightness v => exact (samePorts_setBright v s).framesSent_emitted (isFrame_brightnessFrame _)
  | blinkShown m => exact (samePorts_setBlink m s).framesSent_emitted (isFrame_powerFrame _)
  | blinkLatched m =>
    have hp := samePorts_setBlink m s
    exact (FramesSent.refl.registers hp.trace hp.chip).respond .ok
  | row r m => exact (samePorts_setRows m s).framesSent_emitted (isFrame_rowFrame r _)
  | buffer m => exact (samePorts_setRows m s).framesSent_emitted (isFrame_fullFrame _)

theorem FramesSent.trans {s t u : State} (hst : FramesSent s t) (htu : FramesSent t u) :
    FramesSent s u := by
  induction htu with
  | refl => exact hst
  | registers _ htrace hchip ih => exact ih.registers htrace hchip
  | respond _ st ih => exact ih.respond st
  | write _ hframe ih => exact ih.write hframe

theorem FramesSent.setLife {s t : State} (h : FramesSent s t) (l : Life) :
    FramesSent s (t.setLife l) :=
  h.registers rfl rfl

theorem FramesSent.resetEnded {s t : State} (h : FramesSent s t) {frame : State → List Byte}
    (hframe : IsFrame (frame t)) : FramesSent s (t.resetEnded frame) :=
  have hregs : FramesSent s (t.afterWrite (frame t)).unspecify := (h.write hframe).registers rfl rfl
  (hregs.setLife .failed).respond _

theorem State.resetW1_framesSent (a : DeviceAddress) (s : State) : FramesSent s (s.resetW1 a) :=
  FramesSent.refl.registers rfl rfl

theorem State.resetW2_framesSent (a : DeviceAddress) (b : BitVec 4) (s : State) :
    FramesSent s (s.resetW2 a b) :=
  ((s.resetW1_framesSent a).write (isFrame_oscFrame _)).registers rfl rfl

/-- A reset ends at its first write, or that write returned `ok` and the reset goes on from the state
before W2 (R280, R282). -/
theorem resetBlock_first_write {a : DeviceAddress} {b : BitVec 4} {s t : State}
    (ht : resetBlock a b s = .next t) :
    t = (s.resetW1 a).resetEnded oscFrame ∨
      (s.resetW1 a).nextResult = .ok ∧ FramesSent (s.resetW2 a b) t := by
  have h2 : FramesSent (s.resetW2 a b) (s.resetW2 a b) := .refl
  have h3 : FramesSent (s.resetW2 a b) (s.resetW3 a b) :=
    (h2.write (isFrame_brightnessFrame _)).registers rfl rfl
  have h4 : FramesSent (s.resetW2 a b) (s.resetW4 a b) :=
    (h3.write (isFrame_fullFrame _)).registers rfl rfl
  rw [resetBlock_eq] at ht
  cases ht
  split
  · exact .inl rfl
  next hok =>
  refine .inr ⟨hok, ?_⟩
  split
  · exact h2.resetEnded (isFrame_brightnessFrame _)
  split
  · exact h3.resetEnded (isFrame_fullFrame _)
  split
  · exact h4.resetEnded (isFrame_powerFrame _)
  · exact ((h4.write (isFrame_powerFrame _)).setLife .ready).respond .ok

theorem resetBlock_framesSent {a : DeviceAddress} {b : BitVec 4} {s t : State}
    (ht : resetBlock a b s = .next t) : FramesSent s t := by
  obtain rfl | ⟨-, hrest⟩ := resetBlock_first_write ht
  · exact (s.resetW1_framesSent a).resetEnded (isFrame_oscFrame _)
  · exact (s.resetW2_framesSent a b).trans hrest

theorem step_framesSent {s t : State} (ht : step s = .next t) : FramesSent s t := by
  have htaken : FramesSent s s.takeAction := FramesSent.refl.registers rfl rfl
  obtain ⟨-, rfl⟩ | ⟨-, hc⟩ | ⟨a, b, hr⟩ := step_next ht
  · exact .refl
  · exact htaken.trans hc.framesSent
  · exact htaken.trans (resetBlock_framesSent hr)

/-- No write of frames makes the chip forget a received `[0x21]`. -/
theorem FramesSent.osc_stays {s t : State} (h : FramesSent s t) (hosc : s.chip.osc = true) :
    t.chip.osc = true := by
  induction h with
  | refl => exact hosc
  | registers _ _ hchip ih => rwa [hchip]
  | respond _ _ ih => exact ih
  | write _ _ ih => exact Chip.receive_osc_stays _ _ _ ih

theorem State.afterFault_osc_stays {s : State} (h : s.chip.osc = true) :
    s.afterFault.chip.osc = true := by
  rw [State.afterFault_chip, State.unspecifiedTraffic_chip]
  split
  · simp [h]
  · exact h

/-- Settles O57: over the frames of a step, and over a fault. -/
theorem receivedOscillatorFrameStays : Obligations.ReceivedOscillatorFrameStays := by
  intro s hosc
  refine ⟨fun t ht => (step_framesSent ht).osc_stays hosc, fun w t ht => ?_⟩
  rw [step_fault ht]
  exact State.afterFault_osc_stays hosc

/-- W1 of a reset that returned `ok` starts the oscillator of a chip at the reset's address (R268). -/
theorem State.resetW2_osc {a : DeviceAddress} {s : State} (b : BitVec 4)
    (hok : (s.resetW1 a).nextResult = .ok) (haddr : s.chip.addr = a) :
    (s.resetW2 a b).chip.osc = true := by
  have hdest : (s.resetW1 a).devaddr = (s.resetW1 a).chip.addr := haddr.symm
  rw [State.resetW2, State.setBright_chip, State.afterWrite_chip, State.deliveredBytes_of_ok _ hok,
    oscFrame, Chip.receive_osc, if_pos hdest]

/-- Settles O51: a command keeps the oscillator on, and a reset that ends in READY has started it. -/
theorem stepKeepsOscillatorOn : Obligations.StepKeepsOscillatorOn := by
  intro s t h ht hl' ha'
  obtain ⟨-, rfl⟩ | ⟨hl, hc⟩ | ⟨a, b, hr⟩ := step_next ht
  · exact h hl' ha'
  · rw [hc.chip_addr, hc.devaddr] at ha'
    exact hc.framesSent.osc_stays (h hl ha')
  · obtain hfailed | rfl := resetBlock_next hr
    · simp [hfailed] at hl'
    obtain hended | ⟨hok, hrest⟩ := resetBlock_first_write hr
    · rw [hended] at hl'
      cases hl'
    · have ha : s.chip.addr = a := (State.resetDone_chip_addr a b s.takeAction).symm.trans ha'
      exact hrest.osc_stays (State.resetW2_osc b hok ha)

/-- A one-byte frame that keeps the oscillator does so where only its beginning arrives too. -/
theorem Chip.receive_prefix_singleton_osc {n : Nat} {d : DeviceAddress} {c : Chip} {x : Byte}
    {bytes : List Byte} (hx : (Chip.receive n d [x] c).osc = c.osc) (h : bytes <+: [x]) :
    (Chip.receive n d bytes c).osc = c.osc := by
  obtain e | e := Chip.receive_prefix_singleton (n := n) (d := d) (c := c) h
  · rw [e]
  · rw [e, hx]

/-- Every frame but the oscillator frame keeps the oscillator, even where only its beginning arrives
(R268 to R271). -/
theorem Chip.receive_frame_keeps_osc (n : Nat) (d : DeviceAddress) (c : Chip)
    {frame bytes : List Byte} (hframe : IsFrame frame) (hne : frame ≠ [0x21])
    (h : bytes <+: frame) : (Chip.receive n d bytes c).osc = c.osc := by
  have hdata (hhead : ∀ p ∈ frame.head?, p.toNat < 16) : (Chip.receive n d bytes c).osc = c.osc :=
    (Chip.receive_data_keeps n d c fun p hp =>
      hhead p (head?_take (List.prefix_iff_eq_take.1 h ▸ hp))).1
  obtain hosc | ⟨m, rfl⟩ | rfl | ⟨v, rfl⟩ | ⟨r, x, rfl⟩ | ⟨row, rfl⟩ := hframe
  · exact absurd hosc hne
  · refine Chip.receive_prefix_singleton_osc ?_ h
    rw [Chip.receive_power_on]
    split <;> rfl
  · refine Chip.receive_prefix_singleton_osc ?_ h
    rw [Chip.receive_power_off]
    split <;> rfl
  · refine Chip.receive_prefix_singleton_osc ?_ h
    rw [Chip.receive_brightness]
    split <;> rfl
  · exact hdata (by simp; omega)
  · exact hdata (by simp [fullFrameOf])

/-- A write of a frame starts the oscillator only with `[0x21]` at the chip's own address. -/
theorem State.afterWrite_osc {s : State} {frame : List Byte} (hframe : IsFrame frame)
    (hosc : (s.afterWrite frame).chip.osc = true) :
    s.chip.osc = true ∨ s.devaddr = s.chip.addr ∧ frame = [0x21] := by
  rw [State.afterWrite_chip] at hosc
  by_cases hd : s.devaddr = s.chip.addr
  · by_cases hf : frame = [0x21]
    · exact .inr ⟨hd, hf⟩
    · rw [Chip.receive_frame_keeps_osc _ _ _ hframe hf (State.deliveredBytes_prefix _ _)] at hosc
      exact .inl hosc
  · rw [Chip.receive_elsewhere _ _ hd] at hosc
    exact .inl hosc

theorem FramesSent.chip_addr {s t : State} (h : FramesSent s t) : t.chip.addr = s.chip.addr := by
  induction h with
  | refl => rfl
  | registers _ _ hchip ih => rw [hchip, ih]
  | respond _ _ ih => exact ih
  | write _ _ ih => rw [State.afterWrite_chip, Chip.receive_addr, ih]

/-- A chip that has received `[0x21]` had received it before, or the trace has gained a write of it to the
chip's address. -/
theorem FramesSent.osc_source {s t : State} (h : FramesSent s t) :
    ∃ es, t.trace = s.trace ++ es ∧
      (t.chip.osc = true → s.chip.osc = true ∨ ∃ res, .write s.chip.addr [0x21] res ∈ es) := by
  induction h with
  | refl => exact ⟨[], by simp, .inl⟩
  | registers _ htrace hchip ih => rwa [htrace, hchip]
  | respond _ st ih =>
    obtain ⟨es, htrace, hsource⟩ := ih
    refine ⟨es ++ [.response st], by simp [htrace], fun hosc => ?_⟩
    exact (hsource hosc).imp_right fun ⟨res, hmem⟩ => ⟨res, List.mem_append_left _ hmem⟩
  | @write t h frame hframe ih =>
    obtain ⟨es, htrace, hsource⟩ := ih
    refine ⟨es ++ [.write t.devaddr frame t.nextResult], by simp [htrace], fun hosc => ?_⟩
    obtain hold | ⟨hdest, rfl⟩ := State.afterWrite_osc hframe hosc
    · exact (hsource hold).imp_right fun ⟨res, hmem⟩ => ⟨res, List.mem_append_left _ hmem⟩
    · rw [hdest, h.chip_addr]
      exact .inr ⟨_, List.mem_append_right _ (List.mem_singleton_self _)⟩

/-- Settles O56: the chip powers up without `[0x21]`, and only a write of it to the chip brings it. -/
theorem nothingIsLitBeforeOscillatorFrame : Obligations.NothingIsLitBeforeOscillatorFrame := by
  refine ⟨Chip.lit_of_osc_off rfl, fun s t ht hoff hnone => ?_⟩
  obtain ⟨es, htrace, hsource⟩ := (step_framesSent ht).osc_source
  rw [htrace, List.drop_left] at hnone
  have hosc : t.chip.osc = false := by
    refine Bool.eq_false_iff.2 fun hosc => ?_
    obtain hold | ⟨res, hmem⟩ := hsource hosc
    · simp [hoff] at hold
    · exact hnone res hmem
  exact ⟨hosc, Chip.lit_of_osc_off hosc⟩

end Sys2Proof.Machine
end

section
/-! PROOFS. The reset transaction (70_reset_and_hazards.md): where a failing write leaves it (R282), and
what its outcome depends on (R281). -/

namespace Sys2Proof.Machine

open Sys2Proof

/-! ### A failed reset -/

/-- The state a reset ends in when its write W(k+1) is the first to fail (R282). -/
def State.resetFailedAt (a : DeviceAddress) (b : BitVec 4) (s : State) : Nat → State
  | 0 => (s.resetW1 a).resetEnded oscFrame
  | 1 => (s.resetW2 a b).resetEnded brightnessFrame
  | 2 => (s.resetW3 a b).resetEnded fullFrame
  | _ + 3 => (s.resetW4 a b).resetEnded powerFrame

theorem State.resetFailedAt_registers (a : DeviceAddress) (b : BitVec 4) (s : State) (k : Nat) :
    (s.resetFailedAt a b k).life = .failed ∧ (s.resetFailedAt a b k).devaddr = a ∧
      (s.resetFailedAt a b k).pending = s.pending := by
  match k with
  | 0 | 1 | 2 | _ + 3 => exact ⟨rfl, rfl, rfl⟩

/-- The first failing write decides where a reset ends. -/
theorem resetBlock_of_fail {s : State} (a : DeviceAddress) (b : BitVec 4) {k : Nat} (hk : k < 4)
    (hok : ∀ j < k, s.resultAt j = .ok) (hfail : s.resultAt k = .fail) :
    resetBlock a b s = .next (s.resetFailedAt a b k) := by
  simp only [resetBlock_eq, State.resetW1_nextResult, State.resetW2_nextResult,
    State.resetW3_nextResult, State.resetW4_nextResult]
  match k with
  | 0 => rw [hfail]; rfl
  | 1 => rw [hok 0 (by decide), hfail]; rfl
  | 2 => rw [hok 0 (by decide), hok 1 (by decide), hfail]; rfl
  | 3 => rw [hok 0 (by decide), hok 1 (by decide), hok 2 (by decide), hfail]; rfl

/-- A reset that fails has added the frames before the failing write, that write and the response. -/
theorem State.resetFailedAt_trace {s : State} (a : DeviceAddress) (b : BitVec 4) {k : Nat} (hk : k < 4)
    (hok : ∀ j < k, s.resultAt j = .ok) (hfail : s.resultAt k = .fail) :
    (s.resetFailedAt a b k).trace =
      s.trace ++ ((resetFrames b).take k).map (fun f => Event.write a f .ok) ++
        ((resetFrames b)[k]?.toList).map (fun f => Event.write a f .fail) ++
        [.response .transportFailure] := by
  match k with
  | 0 =>
    have hend : (s.resetFailedAt a b 0).trace =
        (s.resetW2 a b).trace ++ [.response .transportFailure] := rfl
    rw [hend, State.resetW2_trace, hfail]
    simp [resetFrames]
  | 1 =>
    have hend : (s.resetFailedAt a b 1).trace =
        (s.resetW3 a b).trace ++ [.response .transportFailure] := rfl
    rw [hend, State.resetW3_trace, State.resetW2_trace, hok 0 (by decide), hfail]
    simp [resetFrames]
  | 2 =>
    have hend : (s.resetFailedAt a b 2).trace =
        (s.resetW4 a b).trace ++ [.response .transportFailure] := rfl
    rw [hend, State.resetW4_trace, State.resetW3_trace, State.resetW2_trace, hok 0 (by decide),
      hok 1 (by decide), hfail]
    simp [resetFrames]
  | 3 =>
    have hend : (s.resetFailedAt a b 3).trace =
        (s.resetW4 a b).trace ++ [.write a [0x81] (s.resultAt 3)] ++
          [.response .transportFailure] := by
      rw [← s.resetW4_nextResult a b, ← powerFrame_resetW4 a b s]; rfl
    rw [hend, State.resetW4_trace, State.resetW3_trace, State.resetW2_trace, hok 0 (by decide),
      hok 1 (by decide), hok 2 (by decide), hfail]
    simp [resetFrames]

/-- Settles O3: the reset ends in `State.resetFailedAt`, and outside READY nothing runs. -/
theorem failedResetStopsAtFailingWrite : Obligations.FailedResetStopsAtFailingWrite := by
  intro s a b k rest ha hb hk hp hok hfail
  have hok' : ∀ j < k, s.takeAction.resultAt j = .ok := hok
  have hfail' : s.takeAction.resultAt k = .fail := hfail
  obtain ⟨hlife, haddr, hpending⟩ :=
    s.takeAction.resetFailedAt_registers (BitVec.ofNat 7 a) (BitVec.ofNat 4 b) k
  have hrest : s.takeAction.pending = rest := by rw [State.takeAction_pending, hp, List.tail_cons]
  refine ⟨_, ?_, hlife, haddr, hpending.trans hrest, State.resetFailedAt_trace _ _ hk hok' hfail',
    fun i => ?_⟩
  · rw [step_of_legal_reset ha hb hp, resetBlock_of_fail _ _ hk hok' hfail']
  · rw [exec_not_ready i (by simp [hlife]), hlife]

/-! ### What a reset depends on -/

/-- A reset without an address is one with the default address (R281). -/
theorem resetTransaction_default_address (b : Nat) (s : State) :
    resetTransaction none b s = resetTransaction (some 0x70) b s :=
  rfl

/-- The old `BRIGHT` does not reach the outcome of a reset: W1 does not carry it, and then the reset's own
parameter, or the free value of a failure, replaces it (R38, R280, R281). -/
theorem resetBlock_setBright (a : DeviceAddress) (b v : BitVec 4) (s : State) :
    resetBlock a b (s.setBright v) = resetBlock a b s := by
  have hended : ((s.setBright v).resetW1 a).resetEnded oscFrame = (s.resetW1 a).resetEnded oscFrame :=
    rfl
  have hgoesOn : (s.setBright v).resetW2 a b = s.resetW2 a b := rfl
  have hresult : ((s.setBright v).resetW1 a).nextResult = (s.resetW1 a).nextResult := rfl
  simp only [resetBlock_eq, State.resetW3, State.resetW4, State.resetDone, hended, hgoesOn, hresult]

theorem resetTransaction_setBright (a : Option Nat) (b : Nat) (v : BitVec 4) (s : State) :
    resetTransaction a b (s.setBright v) = resetTransaction a b s := by
  simp only [resetTransaction, resetBlock_setBright]

/-- Settles O4: by the parameters a reset runs with, and since a command keeps `DEVADDR`. -/
theorem resetParametersAreSampledAtReset : Obligations.ResetParametersAreSampledAtReset := by
  refine ⟨fun s b rest hp => ?_, fun s t v a b rest hp ht => ?_, fun s t i ht => ?_⟩
  · have htaken : s.takeAction = { s with pending := rest } := by
      rw [State.takeAction, hp, List.tail_cons]
    rw [step_of_reset hp, step_of_reset rfl, resetTransaction_default_address, htaken]
    rfl
  · rw [← ht, step_of_reset hp, step_of_reset (s := { s with bright := v }) hp]
    exact resetTransaction_setBright a b v s.takeAction
  · exact (exec_next ht).2.devaddr

end Sys2Proof.Machine
end

section
/-! PROOFS. The state `State.reset` (10_state.md section 7) as what one successful reset step leaves, so
that it has whatever every step keeps; the idle step (00_scope.md R9); and the sample words of the decoding
vectors. -/

namespace Sys2Proof.Machine

open Sys2Proof

/-! ### The reset state is reached from power-up -/

theorem State.powerUp_rows_wf : State.powerUp.rows.wf :=
  List.foldlRecOn (motive := Memory.wf) (List.range 8)
    (fun m a => m.write a (Config.unspecifiedRow 0 a)) wf_nil
    fun _ h _ ha => write_wf h (List.mem_range.1 ha) _

/-- The block at power-up (R36), presented with a reset whose four writes will return `ok`: its parameters
are the default address and the free brightness (log entries 1 and 2). -/
def State.beforeReset : State :=
  { State.powerUp with
    pending := [.reset (some Config.defaultAddress.toNat) Config.initBrightness.toNat]
    results := [.ok, .ok, .ok, .ok] }

theorem State.beforeReset_resultAt : ∀ k < 4, State.beforeReset.takeAction.resultAt k = .ok := by
  decide

theorem State.beforeReset_not_ready : State.beforeReset.life ≠ .ready := by
  decide

theorem State.beforeReset_canonical : State.beforeReset.Canonical :=
  ⟨State.powerUp_rows_wf, Chip.powerUp_wf _ _⟩

/-- Zeroing a canonical framebuffer empties it. -/
theorem fbZeroAll_eq_nil {m : Memory} (h : m.wf) : fbZeroAll m = [] :=
  eq_nil_of_reads_zero (fbZeroAll_wf h) (read_fbZeroAll m)

/-! What a reset whose writes return `ok` leaves in the chip at its address: W1 starts the oscillator, W2
sets the brightness, W3 stores fifteen zero bytes from address 0, W4 sets the power state (R268 to R271). -/

theorem State.afterWrite_chip_of_ok {s : State} (frame : List Byte) (h : s.nextResult = .ok) :
    (s.afterWrite frame).chip = s.chip.receive s.draws s.devaddr frame := by
  rw [State.afterWrite_chip, State.deliveredBytes_of_ok _ h]

section
variable {s : State} (b : BitVec 4) (h : ∀ k < 4, s.resultAt k = .ok)
include h

theorem State.resetW2_chip_of_ok :
    (s.resetW2 s.chip.addr b).chip = { s.chip with osc := true } := by
  have hok : (s.resetW1 s.chip.addr).nextResult = .ok :=
    (State.resetW1_nextResult _ s).trans (h 0 (by decide))
  rw [State.resetW2, State.setBright_chip, State.afterWrite_chip_of_ok _ hok]
  exact if_pos rfl

theorem State.resetW3_chip_of_ok :
    (s.resetW3 s.chip.addr b).chip = { s.chip with osc := true, dimming := b } := by
  have hok : (s.resetW2 s.chip.addr b).nextResult = .ok :=
    (State.resetW2_nextResult _ b s).trans (h 1 (by decide))
  rw [State.resetW3, State.setRows_chip, State.afterWrite_chip_of_ok _ hok,
    Chip.receive_brightnessFrame, State.resetW2_chip_of_ok b h]
  exact if_pos rfl

theorem State.resetW4_chip_of_ok :
    (s.resetW4 s.chip.addr b).chip =
      Chip.store (List.replicate 15 0x00)
        { s.chip with osc := true, dimming := b, pointer := 0 } := by
  have hok : (s.resetW3 s.chip.addr b).nextResult = .ok :=
    (State.resetW3_nextResult _ b s).trans (h 2 (by decide))
  rw [State.resetW4, State.setOn_chip, State.setBlink_chip, State.afterWrite_chip_of_ok _ hok,
    fullFrame_resetW3, State.resetW3_chip_of_ok b h]
  exact if_pos rfl

theorem State.resetDone_chip_of_ok :
    (s.resetDone s.chip.addr b).chip =
      { Chip.store (List.replicate 15 0x00)
          { s.chip with osc := true, dimming := b, pointer := 0 } with
        displayOn := true, blink := 0 } := by
  have hok : (s.resetW4 s.chip.addr b).nextResult = .ok :=
    (State.resetW4_nextResult _ b s).trans (h 3 (by decide))
  have haddr : s.chip.addr = (s.resetW4 s.chip.addr b).chip.addr :=
    (State.resetW4_chip_addr _ b s).symm
  rw [← State.resetW4_chip_of_ok b h, State.resetDone, State.respond_chip, State.setLife_chip,
    State.afterWrite_chip_of_ok _ hok, Chip.receive_powerFrame]
  exact if_pos haddr

end

/-- `State.reset` is field by field what the completed reset leaves (log entries 1, 2 and 13). -/
theorem State.resetDone_beforeReset :
    State.beforeReset.takeAction.resetDone Config.defaultAddress Config.initBrightness =
      State.reset := by
  have hrows := fbZeroAll_eq_nil State.powerUp_rows_wf
  have htrace := State.resetDone_trace_of_ok Config.defaultAddress Config.initBrightness
    State.beforeReset_resultAt
  have hchip := State.resetDone_chip_of_ok Config.initBrightness State.beforeReset_resultAt
  exact (State.mk.injEq ..).mpr
    ⟨hrows, rfl, rfl, rfl, rfl, rfl, rfl, rfl, rfl, htrace, rfl, hchip⟩

/-- One reset transaction leads from power-up to `State.reset` (R37, R280). -/
theorem step_beforeReset : step State.beforeReset = .next State.reset := by
  rw [step_of_legal_reset (by decide) (Nat.le_of_lt_succ Config.initBrightness.isLt) rfl,
    BitVec.ofNat_toNat, BitVec.ofNat_toNat, BitVec.setWidth_eq, BitVec.setWidth_eq,
    resetBlock_of_ok _ _ State.beforeReset_resultAt, State.resetDone_beforeReset]

/-! ### What holds of the reset state -/

/-- Settles O1: `State.reset` lists no row, and its other registers stand in its definition. -/
theorem resetStateIsReadyAndZero : Obligations.ResetStateIsReadyAndZero :=
  ⟨rfl, fun r => read_nil r.val, rfl, rfl, rfl, rfl, rfl⟩

/-- Settles O46: power-up is canonical, and the reset step keeps that. -/
theorem resetIsCanonical : Obligations.ResetIsCanonical :=
  ⟨(stepKeepsCanonicalMemory _ State.beforeReset_canonical).1 _ step_beforeReset,
    State.beforeReset_canonical⟩

/-- Settles O48: before the reset step the relation claims nothing, and the step keeps it. -/
theorem resetShadowsTrace : Obligations.ResetShadowsTrace :=
  stepKeepsShadowOfTrace _ _ (absurd · State.beforeReset_not_ready) step_beforeReset

/-- Settles O50: before the reset step both relations claim nothing, and the step keeps them. -/
theorem resetChipAgrees : Obligations.ResetChipAgrees :=
  ⟨stepKeepsChipAgreement _ _ (absurd · State.beforeReset_not_ready) step_beforeReset,
    stepKeepsOscillatorOn _ _ (absurd · State.beforeReset_not_ready) step_beforeReset⟩

/-! ### The idle step -/

/-- Settles O10: an empty port runs no action. -/
theorem stepWithoutTransactionIsIdle : Obligations.StepWithoutTransactionIsIdle :=
  fun _ => step_of_nil

/-! ### The sample words -/

/-- Settles O19: thirteen of the words are the encoded words of their instructions, and the last is a
`clear_row` with a non-zero D. -/
theorem sampleWordsDecode : Obligations.SampleWordsDecode :=
  ⟨decodeOfEncode .on, decodeOfEncode .off, decodeOfEncode (.setBrightness 16),
    decodeOfEncode (.setBlinking 3), decodeOfEncode (.set 0x10307FFF7F301000), decodeOfEncode .clear,
    decodeOfEncode (.setRow 5 0x12), decodeOfEncode (.clearRow 7), decodeOfEncode (.setPixel 7 6),
    decodeOfEncode (.clearPixel 3 7), decodeOfEncode (.setColumn 3 0xA5),
    decodeOfEncode (.clearColumn 2), decodeOfEncode (.reservedOpE 1 0x23),
    decode_eq_error_iff.2 (by decide)⟩

end Sys2Proof.Machine
end
